-- ==== Sys2Proof/Word.lean ====
section
/-! DEFINITION. Word.lean: the widths the spec gives names to (00_scope R10, R12): bytes and 32-bit command and
response words. All values are unsigned; nothing is sign-extended anywhere (R12). -/

namespace Sys2Proof

/-- A byte: the addressable unit of `BUF` and `KEY` (20_memory R60, R61). -/
abbrev Byte := BitVec 8

/-- A 16-bit value: the width of the CRC register (00_scope R7). -/
abbrev Half := BitVec 16

/-- The width of the address and length registers `POS`, `LN8`, `KLEN` (00_scope R10). -/
abbrev Addr := BitVec 17

/-- A command word or a response (00_scope R10, 30_encoding R90). -/
abbrev Word := BitVec 32

end Sys2Proof
end

