-- ==== Sys2Proof/Syntax.lean ====
section
/-! DEFINITION. Syntax.lean: the command set (30_encoding R98), one constructor for each of the 20 rows of
spec/opcode_table.json. Operands the spec treats as numbers (register numbers, values, addresses, rotation amounts,
R97) are natural numbers, whose ranges WellFormed.lean checks; bytes and single bits are bit vectors. -/

namespace Sys2Proof

/-- One command of the block (30_encoding R98), with its operands in the order of R98's mnemonic column. -/
inductive Instr where
  /-- `NOP`, no operation (R180). -/
  | nop
  /-- `RST`, soft reset (R181). -/
  | rst
  /-- `WRR r, v`, write register `r` (R182). -/
  | wrr (r v : Nat)
  /-- `RDR r`, read register `r` (R183). -/
  | rdr (r : Nat)
  /-- `STB a, d`, store a byte to `BUF` (R184). -/
  | stb (a : Nat) (d : Byte)
  /-- `LDB a`, load a byte from `BUF` (R185). -/
  | ldb (a : Nat)
  /-- `STK a, d`, store a byte to `KEY` (R186). -/
  | stk (a : Nat) (d : Byte)
  /-- `ROL v, n`, rotate an immediate byte left (R122). -/
  | rol (v : Byte) (n : Nat)
  /-- `ROLR n`, rotate `ROT` left in place (R123). -/
  | rolr (n : Nat)
  /-- `ROR v, n`, rotate an immediate byte right (R124). -/
  | ror (v : Byte) (n : Nat)
  /-- `RORR n`, rotate `ROT` right in place (R125). -/
  | rorr (n : Nat)
  /-- `CRCI`, seed the CRC register (R133). -/
  | crci
  /-- `CRCB d`, fold one byte into the CRC register (R134). -/
  | crcb (d : Byte)
  /-- `CRCR`, CRC of the body (R135). -/
  | crcr
  /-- `EINIT`, load the encode walk's initial state (R149). -/
  | einit
  /-- `DINIT dir, x`, load the decode walk's initial state (R150). -/
  | dinit (dir : BitVec 1) (x : Byte)
  /-- `ESTEP`, one encode iteration (R163). -/
  | estep
  /-- `DSTEP`, one decode iteration (R165). -/
  | dstep
  /-- `EWALK`, the whole encode walk (R166). -/
  | ewalk
  /-- `DWALK`, the whole decode walk (R167). -/
  | dwalk
deriving DecidableEq, Repr

end Sys2Proof
end

