-- ==== Sys2Proof/WellFormed.lean ====
section
/-! DEFINITION. WellFormed.lean: which operands an encoding can hold (30_encoding R92 to R97). A register number above 10
or an address beyond a memory is well-formed: the word exists, and the command faults when it runs (R231). -/

namespace Sys2Proof

/-- The operands fit the fields of the command's format: `r` 5 bits and `v` 17 bits (R93), `a` 17 bits (R94), `n`
8 bits (R95). The other operands fit by their types (`d`, `x`, the rotated byte, `dir`). -/
def Instr.wellFormed : Instr → Bool
  | .nop => true
  | .rst => true
  | .wrr r v => decide (r < 32) && decide (v < 131072)
  | .rdr r => decide (r < 32)
  | .stb a _ => decide (a < 131072)
  | .ldb a => decide (a < 131072)
  | .stk a _ => decide (a < 131072)
  | .rol _ n => decide (n < 256)
  | .rolr n => decide (n < 256)
  | .ror _ n => decide (n < 256)
  | .rorr n => decide (n < 256)
  | .crci => true
  | .crcb _ => true
  | .crcr => true
  | .einit => true
  | .dinit _ _ => true
  | .estep => true
  | .dstep => true
  | .ewalk => true
  | .dwalk => true

end Sys2Proof
end

