-- ==== Sys2Proof/Decode.lean ====
section
/-! DEFINITION. Decode.lean: command words to commands (30_encoding R90 to R101), total on all 2^32 words, and after it
the encoder (R99). The fields of a format are contiguous and disjoint (R91 to R96), so R99's `|` is written as `+`. -/

namespace Sys2Proof

/-- Why a word is no command (30_encoding R100, R101). A closed type; both are safe, since the machine records the fault
code the spec names (60_exceptions R231). -/
inductive Reject where
  /-- The opcode selects no command: `ERR_OP` (R100). -/
  | undefinedOpcode
  /-- A reserved or must-be-zero field of a defined command is not 0: `ERR_RSV` (R101). -/
  | reservedField
deriving DecidableEq, Repr

/-- `W[hi:lo]`, the field of bits `hi` down to `lo` inclusive, as an unsigned integer (00_scope R12). -/
def field (W : Word) (hi lo : Nat) : Nat := W.toNat / 2 ^ lo % 2 ^ (hi - lo + 1)

/-- A byte field of a word, from bit `lo` up. -/
def byteField (W : Word) (lo : Nat) : Byte := BitVec.ofNat 8 (field W (lo + 7) lo)

/-- The command `i`, if the must-be-zero fields of its format are zero (R101). -/
def requireZero (zero : Bool) (i : Instr) : Except Reject Instr :=
  match zero with
  | true => .ok i
  | false => .error .reservedField

/-- Format N: `W[26:0]` must be 0 (R91). -/
def decodeN (W : Word) (i : Instr) : Except Reject Instr := requireZero (field W 26 0 == 0) i

/-- Format T: `W[26:17]` must be 0; with `s = 0` the value is the immediate `W[15:8]`, with `s = 1` it is `ROT` and
`W[15:8]` must be 0 (R95). -/
def decodeT (W : Word) (imm : Byte → Nat → Instr) (reg : Nat → Instr) : Except Reject Instr :=
  match field W 16 16 with
  | 0 => requireZero (field W 26 17 == 0) (imm (byteField W 8) (field W 7 0))
  | _ => requireZero (field W 26 17 == 0 && field W 15 8 == 0) (reg (field W 7 0))

/-- The command a word stands for, or why it stands for none (R90, R98, R100, R101). -/
def decode (W : Word) : Except Reject Instr :=
  match field W 31 27 with
  | 0x00 => decodeN W .nop
  | 0x01 => decodeN W .rst
  | 0x02 => requireZero (field W 21 17 == 0) (.wrr (field W 26 22) (field W 16 0))
  | 0x03 => requireZero (field W 21 0 == 0) (.rdr (field W 26 22))
  | 0x04 => requireZero (field W 26 25 == 0) (.stb (field W 24 8) (byteField W 0))
  | 0x05 => requireZero (field W 26 25 == 0 && field W 7 0 == 0) (.ldb (field W 24 8))
  | 0x06 => requireZero (field W 26 25 == 0) (.stk (field W 24 8) (byteField W 0))
  | 0x08 => decodeT W .rol .rolr
  | 0x09 => decodeT W .ror .rorr
  | 0x0A => decodeN W .crci
  | 0x0B => requireZero (field W 26 8 == 0) (.crcb (byteField W 0))
  | 0x0C => decodeN W .crcr
  | 0x10 => decodeN W .einit
  | 0x11 => requireZero (field W 26 9 == 0) (.dinit (BitVec.ofNat 1 (field W 8 8)) (byteField W 0))
  | 0x12 => decodeN W .estep
  | 0x13 => decodeN W .dstep
  | 0x14 => decodeN W .ewalk
  | 0x15 => decodeN W .dwalk
  | _ => .error .undefinedOpcode

/-- The opcode field of a command's word (R98). -/
def Instr.opcode : Instr → Nat
  | .nop => 0x00
  | .rst => 0x01
  | .wrr _ _ => 0x02
  | .rdr _ => 0x03
  | .stb _ _ => 0x04
  | .ldb _ => 0x05
  | .stk _ _ => 0x06
  | .rol _ _ => 0x08
  | .rolr _ => 0x08
  | .ror _ _ => 0x09
  | .rorr _ => 0x09
  | .crci => 0x0A
  | .crcb _ => 0x0B
  | .crcr => 0x0C
  | .einit => 0x10
  | .dinit _ _ => 0x11
  | .estep => 0x12
  | .dstep => 0x13
  | .ewalk => 0x14
  | .dwalk => 0x15

/-- The word as a number: `(op << 27) | fields` (R99), with `op << 27` the match value of the row (R98). -/
def encodeNat : Instr → Nat
  | .nop => 0x00000000
  | .rst => 0x08000000
  | .wrr r v => 0x10000000 + r * 2 ^ 22 + v
  | .rdr r => 0x18000000 + r * 2 ^ 22
  | .stb a d => 0x20000000 + a * 2 ^ 8 + d.toNat
  | .ldb a => 0x28000000 + a * 2 ^ 8
  | .stk a d => 0x30000000 + a * 2 ^ 8 + d.toNat
  | .rol v n => 0x40000000 + v.toNat * 2 ^ 8 + n
  | .rolr n => 0x40010000 + n
  | .ror v n => 0x48000000 + v.toNat * 2 ^ 8 + n
  | .rorr n => 0x48010000 + n
  | .crci => 0x50000000
  | .crcb d => 0x58000000 + d.toNat
  | .crcr => 0x60000000
  | .einit => 0x80000000
  | .dinit dir x => 0x88000000 + dir.toNat * 2 ^ 8 + x.toNat
  | .estep => 0x90000000
  | .dstep => 0x98000000
  | .ewalk => 0xA0000000
  | .dwalk => 0xA8000000

/-- The word of a well-formed command (R99). -/
def encode (i : Instr) : Word := BitVec.ofNat 32 (encodeNat i)

/-- The mnemonic of a command, as spec/opcode_table.json spells it (R98). -/
def Instr.mnemonic : Instr → String
  | .nop => "NOP"
  | .rst => "RST"
  | .wrr _ _ => "WRR"
  | .rdr _ => "RDR"
  | .stb _ _ => "STB"
  | .ldb _ => "LDB"
  | .stk _ _ => "STK"
  | .rol _ _ => "ROL"
  | .rolr _ => "ROLR"
  | .ror _ _ => "ROR"
  | .rorr _ => "RORR"
  | .crci => "CRCI"
  | .crcb _ => "CRCB"
  | .crcr => "CRCR"
  | .einit => "EINIT"
  | .dinit _ _ => "DINIT"
  | .estep => "ESTEP"
  | .dstep => "DSTEP"
  | .ewalk => "EWALK"
  | .dwalk => "DWALK"

/-- One row of the opcode map: a word `W` is this command if and only if `W & mask = match` (R98). The field is named
`pattern` because `match` is a word of Lean's own. -/
structure OpcodeRow where
  mnemonic : String
  pattern : Word
  mask : Word
deriving DecidableEq, Repr

/-- The opcode map of R98, transcribed; `decode` does not use it, so that the two can be compared. -/
def opcodeMap : List OpcodeRow :=
  [ ⟨"NOP", 0x00000000, 0xFFFFFFFF⟩,
    ⟨"RST", 0x08000000, 0xFFFFFFFF⟩,
    ⟨"WRR", 0x10000000, 0xF83E0000⟩,
    ⟨"RDR", 0x18000000, 0xF83FFFFF⟩,
    ⟨"STB", 0x20000000, 0xFE000000⟩,
    ⟨"LDB", 0x28000000, 0xFE0000FF⟩,
    ⟨"STK", 0x30000000, 0xFE000000⟩,
    ⟨"ROL", 0x40000000, 0xFFFF0000⟩,
    ⟨"ROLR", 0x40010000, 0xFFFFFF00⟩,
    ⟨"ROR", 0x48000000, 0xFFFF0000⟩,
    ⟨"RORR", 0x48010000, 0xFFFFFF00⟩,
    ⟨"CRCI", 0x50000000, 0xFFFFFFFF⟩,
    ⟨"CRCB", 0x58000000, 0xFFFFFF00⟩,
    ⟨"CRCR", 0x60000000, 0xFFFFFFFF⟩,
    ⟨"EINIT", 0x80000000, 0xFFFFFFFF⟩,
    ⟨"DINIT", 0x88000000, 0xFFFFFE00⟩,
    ⟨"ESTEP", 0x90000000, 0xFFFFFFFF⟩,
    ⟨"DSTEP", 0x98000000, 0xFFFFFFFF⟩,
    ⟨"EWALK", 0xA0000000, 0xFFFFFFFF⟩,
    ⟨"DWALK", 0xA8000000, 0xFFFFFFFF⟩ ]

/-- The instruction the decoder reads from the word whose low `nbits` bits are those of `w` and whose other bits are 0.
A command is one 32-bit word that the host presents whole, so there is no byte order to lay out (20_memory R63). -/
def decodeTableWord (nbits w : Nat) : Option Instr :=
  (decode (BitVec.ofNat 32 (w % 2 ^ nbits))).toOption

end Sys2Proof
end

