-- ==== Sys2Proof/Machine/Flags.lean ====
section
/-! DEFINITION. Machine/Flags.lean: the pure functions of a CRC value that the views `IV`, `PAR`, `X0` show and that
`EINIT` and `DINIT` load (42_params R145 to R147). The block has no arithmetic flags (10_state R30). -/

namespace Sys2Proof.Machine

/-- `popcount(v)`, the number of 1 bits of `v` (00_scope R13). -/
def popcount {w : Nat} (v : BitVec w) : Nat := (List.range w).countP v.getLsbD

/-- `hi8(c) = c[15:8]` (00_scope R13). -/
def hi8 (c : Half) : Byte := c.extractLsb' 8 8

/-- `lo8(c) = c[7:0]` (00_scope R13). -/
def lo8 (c : Half) : Byte := c.extractLsb' 0 8

/-- The nibble of `c` whose lowest bit is bit `lo`. -/
def nibble (c : Half) (lo : Nat) : Nat := (c.extractLsb' lo 4).toNat

/-- `iv_of(c)`, the integer sum of the four nibbles modulo 8 (R145). -/
def ivOf (c : Half) : BitVec 3 := BitVec.ofNat 3 ((nibble c 12 + nibble c 8 + nibble c 4 + nibble c 0) % 8)

/-- `pwrd_of(c)`, the parity of `c` (R146). -/
def pwrdOf (c : Half) : BitVec 1 := BitVec.ofNat 1 (popcount c % 2)

/-- `xor0_of(c) = 0xAA ^ c[15:8] ^ c[7:0]` (R147). -/
def xor0Of (c : Half) : Byte := 0xAA ^^^ hi8 c ^^^ lo8 c

end Sys2Proof.Machine
end

