-- ==== Sys2Proof/Config.lean ====
section
/-! DEFINITION. Config.lean: what an instance of the block fixes (00_scope R8, R9) and the free values, which the spec
leaves open. A free value has no body that a proof can see. -/

namespace Sys2Proof

/-- The two parameters of an instance of the block, fixed for its life (10_state R20). -/
structure Config where
  /-- `BUF_SIZE`, the number of bytes of buffer memory (00_scope R8). -/
  bufSize : Nat
  /-- `KEY_SIZE`, the number of bytes of key memory (00_scope R9). -/
  keySize : Nat
deriving DecidableEq, Repr

/-- The defaults, which every example of the spec uses (00_scope R8, R9). -/
def Config.default : Config := { bufSize := 65552, keySize := 256 }

/-- The constraint on either size: a multiple of 8 from 8 to 131072 (00_scope R8, R9). -/
abbrev Config.LegalSize (n : Nat) : Prop := n % 8 = 0 ∧ 8 ≤ n ∧ n ≤ 131072

/-- The parameters are ones the spec allows (00_scope R8, R9). -/
abbrev Config.Legal (c : Config) : Prop := Config.LegalSize c.bufSize ∧ Config.LegalSize c.keySize

/-- FREE VALUE (log 4): what the byte of `BUF` at an address holds from power-up until it is written. Some value, the
same at every read, and no rule fixes which (70_reset R261). -/
opaque Config.powerUpBuf : Nat → Byte

/-- FREE VALUE (log 4): what the byte of `KEY` at an address holds from power-up until it is written (70_reset R261). -/
opaque Config.powerUpKey : Nat → Byte

/-- FREE VALUE (log 12), host software only: whether the entry points test the password's length before the payload's.
The source does not state the order (45_host_sequences R210). -/
opaque Config.weakKeyFirst : Bool

end Sys2Proof
end

