-- ==== Sys2Proof/Machine/State.lean ====
section
/-! DEFINITION. Machine/State.lean: the whole state of the block (10_state R20) as plain data, its fault codes
(60_exceptions R231), the reasons a step of the model can stop, and the state right after reset (10_state R40). -/

namespace Sys2Proof.Machine

/-- The contents of a memory: the bytes written since power-up, as (address, byte) pairs with addresses strictly rising.
An address that is not listed has not been written: the list gives it no value, and what a command reads there is the
free value of `readBuf` and `readKey` in Machine/Ops.lean (70_reset R261; log 4). -/
abbrev Memory := List Host.Cell

/-- What the host does at the ports in one transaction (10_state R33; log 1, log 8). -/
inductive Transaction where
  /-- A command word on `cmd`. -/
  | command (w : Word)
  /-- The hardware reset input `rst` asserted (70_reset R260). -/
  | reset
deriving DecidableEq, Repr

/-- The numbered registers 0 to 10, in order (10_state R21). -/
inductive Reg where
  | crc | xOr | pos | ln8 | klen | dir | rot | iv | par | x0 | err
deriving DecidableEq, Repr

/-- The causes of a fault of the block (60_exceptions R231). The block records them in `ERR` and goes on: they are next
states of the model, not stops. -/
inductive FaultCode where
  /-- Undefined opcode. -/
  | op
  /-- Reserved or must-be-zero field not 0. -/
  | rsv
  /-- Register not implemented, or read only. -/
  | reg
  /-- Value too wide for the register, or not a legal value of it. -/
  | val
  /-- Address beyond the memory. -/
  | adr
  /-- `POS >= LN8` when a step or walk starts. -/
  | pos
deriving DecidableEq, Repr

/-- The reasons a step of the MODEL stops with a fault. Both are raised only from a state the spec says cannot occur
(R24, R25: the length registers only ever hold legal values), where an engine would access an address that does not
exist (20_memory R60, R61). Both are safe: no run from reset reaches them (log 6). -/
inductive Fault where
  /-- Raised by `CRCR`, `ESTEP`, `DSTEP`, `EWALK`, `DWALK` when `LN8 > BUF_SIZE`. Safe. -/
  | bodyBeyondBuf
  /-- Raised by `ESTEP`, `DSTEP`, `EWALK`, `DWALK` when `KLEN = 0` or `KLEN > KEY_SIZE`. Safe. -/
  | keyBeyondKey
deriving DecidableEq, Repr

/-- The reasons the model gives no meaning. -/
inductive Refusal where
  /-- An instruction without a meaning yet, by its mnemonic; raised by an arm of `exec` only, and by none of them now.
  Safe: the model stops. -/
  | notModelled (mnemonic : String)
deriving DecidableEq, Repr

/-- The state of the block (10_state R20), and after it the model's own two fields. -/
structure State where
  /-- `CRC`, the CRC shift register (R22). -/
  crc : Half
  /-- `X_OR`, the keystream byte (R23). -/
  xOr : Byte
  /-- `POS`, the walk position (R29). -/
  pos : Addr
  /-- `LN8`, the body length (R24). -/
  ln8 : Addr
  /-- `KLEN`, the length of the normalised password (R25). -/
  klen : Addr
  /-- `DIR`, the direction flag (R30). -/
  dir : BitVec 1
  /-- `ROT`, the result of the last rotate command (R26). -/
  rot : Byte
  /-- `ERR`, the sticky fault code, 0 when there is none (R31). -/
  err : BitVec 4
  /-- `RSP`, the response register, which is the output port `rsp` (R33, R34). -/
  rsp : Word
  /-- `BUF`, the buffer memory (R37). -/
  buf : Memory
  /-- `KEY`, the key memory (R38). -/
  key : Memory
  /-- THE MODEL'S OWN: the parameters of the instance, which no step changes (R20; log 5). -/
  cfg : Config
  /-- THE MODEL'S OWN: the transactions the host has still to make, the next one first (R33, R35; log 1). -/
  input : List Transaction
deriving DecidableEq, Repr

/-- The machine right after power-up reset: the register values of 10_state R40, memories with nothing written
(70_reset R261), the default parameters (00_scope R8, R9; log 5) and no transaction pending (log 1). -/
def State.reset : State where
  crc := 0xAAAA
  xOr := 0x00
  pos := 0
  ln8 := 8
  klen := 8
  dir := 0
  rot := 0x00
  err := 0
  rsp := 0x00000000
  buf := []
  key := []
  cfg := Config.default
  input := []

end Sys2Proof.Machine
end

