-- ==== Sys2Proof/Machine/Operands.lean ====
section
/-! DEFINITION. Machine/Operands.lean: what the operand of `WRR` and `RDR` names (10_state R21) and which values a register
takes (44_access_system R182), and the position and key-index arithmetic of the walks (43_walk R160, R161). -/

namespace Sys2Proof.Machine

/-- The register of a number; numbers 11 to 31 are not implemented (10_state R21). -/
def regOfNumber : Nat → Option Reg
  | 0 => some .crc
  | 1 => some .xOr
  | 2 => some .pos
  | 3 => some .ln8
  | 4 => some .klen
  | 5 => some .dir
  | 6 => some .rot
  | 7 => some .iv
  | 8 => some .par
  | 9 => some .x0
  | 10 => some .err
  | _ => none

/-- The width of a register in bits (10_state R21). -/
def regWidth : Reg → Nat
  | .crc => 16
  | .xOr => 8
  | .pos => 17
  | .ln8 => 17
  | .klen => 17
  | .dir => 1
  | .rot => 8
  | .iv => 3
  | .par => 1
  | .x0 => 8
  | .err => 4

/-- `v < 2^width(r)`: the value fits the register (44_access_system R182). -/
def regFits (r : Reg) (v : Nat) : Bool := decide (v < 2 ^ regWidth r)

/-- The views and `ERR` are read only (10_state R21, R30, R31). -/
def regReadOnly : Reg → Bool
  | .iv => true
  | .par => true
  | .x0 => true
  | .err => true
  | _ => false

/-- A legal length for a memory of `size` bytes: a multiple of 8 from 8 to `size` (10_state R24, R25). -/
def legalLength (size v : Nat) : Bool := v % 8 == 0 && decide (8 ≤ v) && decide (v ≤ size)

/-- `v` is a legal value of the register, beyond fitting its width: `LN8` and `KLEN` take legal lengths only
(44_access_system R182). -/
def regLegal (cfg : Config) (r : Reg) (v : Nat) : Bool :=
  match r with
  | .ln8 => legalLength cfg.bufSize v
  | .klen => legalLength cfg.keySize v
  | _ => true

/-- `dec_pos(q, L)` (43_walk R160). -/
def decPos (q L : Nat) : Nat := if q = 0 then L - 1 else q - 1

/-- `inc_pos(q, L)` (43_walk R160). -/
def incPos (q L : Nat) : Nat := if q = L - 1 then 0 else q + 1

/-- `enc_adv(q, L, dir)`, the encode advance (43_walk R160). -/
def encAdv (q L : Nat) (dir : BitVec 1) : Nat := if dir = 1 then decPos q L else incPos q L

/-- `dec_adv(q, L, dir)`, the decode advance (43_walk R160). -/
def decAdv (q L : Nat) (dir : BitVec 1) : Nat := if dir = 1 then incPos q L else decPos q L

/-- `p = q mod KLEN`, the key index of a step at position `q` (43_walk R161). -/
def keyIndex (q klen : Nat) : Nat := q % klen

end Sys2Proof.Machine
end

