-- ==== Sys2Proof/Machine/Ops.lean ====
section
/-! DEFINITION. Machine/Ops.lean: the named operations over registers, memories and ports: byte access to `BUF` and `KEY`
(00_scope R14, 20_memory R65), register access (44_access_system R182, R183), fault entry (60_exceptions R233) with the
return from it (70_reset R260), and the host's transactions (10_state R33). -/

namespace Sys2Proof.Machine

/-! ### Memories -/

/-- The byte written last at an address, if one was written since power-up. -/
def Memory.cell? : Memory → Nat → Option Byte
  | [], _ => none
  | (b, d) :: m, a => if a = b then some d else Memory.cell? m a

/-- Store a byte, keeping the addresses strictly rising. -/
def Memory.write : Memory → Nat → Byte → Memory
  | [], a, d => [(a, d)]
  | (b, e) :: m, a, d =>
    if a < b then (a, d) :: (b, e) :: m
    else if a = b then (a, d) :: m
    else (b, e) :: Memory.write m a d

/-- Addresses strictly rising, from `lo` up, and all below `size`. -/
def Memory.risingFrom (size : Nat) : Nat → Memory → Bool
  | _, [] => true
  | lo, (a, _) :: m => decide (lo ≤ a) && decide (a < size) && Memory.risingFrom size (a + 1) m

/-- The canonical form of a memory of `size` bytes: addresses strictly rising, and every one of them exists. -/
def Memory.wf (size : Nat) (m : Memory) : Bool := Memory.risingFrom size 0 m

/-- `BufRead(a)` (00_scope R14). A byte not written since power-up holds the free value of its address, the same at
every read (70_reset R261; log 4). -/
def State.readBuf (s : State) (a : Nat) : Byte := (s.buf.cell? a).getD (Config.powerUpBuf a)

/-- `KeyRead(a)` (00_scope R14), with a free value where nothing was written (70_reset R261; log 4). -/
def State.readKey (s : State) (a : Nat) : Byte := (s.key.cell? a).getD (Config.powerUpKey a)

/-- `BufWrite(a, d)` (00_scope R14). -/
def State.writeBuf (s : State) (a : Nat) (d : Byte) : State := { s with buf := s.buf.write a d }

/-- `KeyWrite(a, d)` (00_scope R14). -/
def State.writeKey (s : State) (a : Nat) (d : Byte) : State := { s with key := s.key.write a d }

/-! ### Registers -/

/-- `zext_32(reg[r])`, the views computed from `CRC` (44_access_system R183, 42_params R148). -/
def State.readReg (s : State) : Reg → Word
  | .crc => s.crc.zeroExtend 32
  | .xOr => s.xOr.zeroExtend 32
  | .pos => s.pos.zeroExtend 32
  | .ln8 => s.ln8.zeroExtend 32
  | .klen => s.klen.zeroExtend 32
  | .dir => s.dir.zeroExtend 32
  | .rot => s.rot.zeroExtend 32
  | .iv => (ivOf s.crc).zeroExtend 32
  | .par => (pwrdOf s.crc).zeroExtend 32
  | .x0 => (xor0Of s.crc).zeroExtend 32
  | .err => s.err.zeroExtend 32

/-- `reg[r] <- v` for a register that can be written and a value it takes (44_access_system R182); nothing for the views
and `ERR`, which no `WRR` reaches. -/
def State.writeReg (s : State) (r : Reg) (v : Nat) : State :=
  match r with
  | .crc => { s with crc := BitVec.ofNat 16 v }
  | .xOr => { s with xOr := BitVec.ofNat 8 v }
  | .pos => { s with pos := BitVec.ofNat 17 v }
  | .ln8 => { s with ln8 := BitVec.ofNat 17 v }
  | .klen => { s with klen := BitVec.ofNat 17 v }
  | .dir => { s with dir := BitVec.ofNat 1 v }
  | .rot => { s with rot := BitVec.ofNat 8 v }
  | .iv => s
  | .par => s
  | .x0 => s
  | .err => s

/-- `RSP <- v` (10_state R34). -/
def State.respond (s : State) (v : Word) : State := { s with rsp := v }

/-! ### Fault entry and the return from it -/

/-- The number recorded in `ERR` for a cause (60_exceptions R231). -/
def FaultCode.code : FaultCode → BitVec 4
  | .op => 1
  | .rsv => 2
  | .reg => 3
  | .val => 4
  | .adr => 5
  | .pos => 6

/-- `raise Fault(code)`: fault entry. `ERR <- code` and nothing else (60_exceptions R233); in the fault state the first
code sticks and the word is ignored (R234). -/
def State.raise (s : State) (c : FaultCode) : State := if s.err = 0 then { s with err := c.code } else s

/-- Reset, the only return from the fault state (60_exceptions R235): every register to its reset value, `BUF` and `KEY`
untouched (70_reset R260, R261). The same for `RST` and for the input `rst`. -/
def State.resetRegisters (s : State) : State :=
  { s with
    crc := 0xAAAA
    xOr := 0x00
    pos := 0
    ln8 := 8
    klen := 8
    dir := 0
    rot := 0x00
    err := 0
    rsp := 0x00000000 }

/-- The effect `k` of a command that the fault state ignores: with `ERR != 0` no state changes (60_exceptions R234). -/
def State.unlessFaulted (s : State) (k : Host.Outcome State Fault Refusal) : Host.Outcome State Fault Refusal :=
  if s.err = 0 then k else .next s

/-- The fault a word that is no command raises (30_encoding R100, R101). -/
def rejectCode : Reject → FaultCode
  | .undefinedOpcode => .op
  | .reservedField => .rsv

/-! ### The host's transactions -/

/-- The next transaction of the host, and the state once it is taken (10_state R33; log 1). -/
def State.nextTransaction (s : State) : Option (Transaction × State) :=
  match s.input with
  | [] => none
  | x :: rest => some (x, { s with input := rest })

/-- The host presents `w` before anything else it had to present. -/
def State.present (s : State) (w : Word) : State := { s with input := .command w :: s.input }

end Sys2Proof.Machine
end

