-- ==== Sys2Proof/Machine/Access.lean ====
section
/-! DEFINITION. Machine/Access.lean: the access and system commands NOP, RST, WRR, RDR, STB, LDB, STK
(44_access_system R180 to R186). -/

namespace Sys2Proof.Machine

/-- `NOP`: nothing, in the fault state too (R180). -/
def execNop (s : State) : Host.Outcome State Fault Refusal := .next s

/-- `RST`: every register to its reset value, in the fault state too; memories unchanged (R181). -/
def execRst (s : State) : Host.Outcome State Fault Refusal := .next s.resetRegisters

/-- `WRR r, v`: the checks of R182 in its order, then `reg[r] <- v`. Ignored in the fault state. -/
def execWrr (r v : Nat) (s : State) : Host.Outcome State Fault Refusal :=
  s.unlessFaulted <|
    match regOfNumber r with
    | none => .next (s.raise .reg)
    | some g =>
      match regReadOnly g with
      | true => .next (s.raise .reg)
      | false =>
        match regFits g v with
        | false => .next (s.raise .val)
        | true =>
          match regLegal s.cfg g v with
          | false => .next (s.raise .val)
          | true => .next (s.writeReg g v)

/-- `RDR r`: `RSP <- zext_32(reg[r])`, in the fault state too; `ERR_REG` for a register that does not exist, which the
fault state ignores (R183, R234). -/
def execRdr (r : Nat) (s : State) : Host.Outcome State Fault Refusal :=
  match regOfNumber r with
  | none => .next (s.raise .reg)
  | some g => .next (s.respond (s.readReg g))

/-- `STB a, d`: store a byte to `BUF`, or `ERR_ADR` (R184). Ignored in the fault state. -/
def execStb (a : Nat) (d : Byte) (s : State) : Host.Outcome State Fault Refusal :=
  s.unlessFaulted <| if s.cfg.bufSize ≤ a then .next (s.raise .adr) else .next (s.writeBuf a d)

/-- `LDB a`: `RSP <- zext_32(BUF[a])`, in the fault state too; `ERR_ADR` out of range, which the fault state ignores
(R185, R234). -/
def execLdb (a : Nat) (s : State) : Host.Outcome State Fault Refusal :=
  if s.cfg.bufSize ≤ a then .next (s.raise .adr) else .next (s.respond ((s.readBuf a).zeroExtend 32))

/-- `STK a, d`: store a byte to `KEY`, or `ERR_ADR` (R186). Ignored in the fault state. -/
def execStk (a : Nat) (d : Byte) (s : State) : Host.Outcome State Fault Refusal :=
  s.unlessFaulted <| if s.cfg.keySize ≤ a then .next (s.raise .adr) else .next (s.writeKey a d)

end Sys2Proof.Machine
end

