-- ==== Sys2Proof/Machine/Crc.lean ====
section
/-! DEFINITION. Machine/Crc.lean: the bit-serial CRC generator (41_crc R130 to R132) and CRCI, CRCB, CRCR
(R133 to R135). -/

namespace Sys2Proof.Machine

/-- `CRC_SEED`, the initial register value (00_scope R7). -/
def crcSeed : Half := 0xAAAA

/-- `CRC_FB`, the feedback pattern (00_scope R7). -/
def crcFeedback : Half := 0xAAAA

/-- `crc_bit(reg, b)`, the bit step (R130). -/
def crcBit (reg : Half) (b : Bool) : Half :=
  if reg.getLsbD 15 ^^ b then (reg <<< 1) ^^^ crcFeedback else reg <<< 1

/-- `crc_byte(reg, d)`: eight bit steps, the most significant bit of `d` first (R131). -/
def crcByte (reg : Half) (d : Byte) : Half :=
  [7, 6, 5, 4, 3, 2, 1, 0].foldl (fun r i => crcBit r (d.getLsbD i)) reg

/-- `crc_seq(s)`: the CRC of a byte sequence, first byte first, from the seed (R132). -/
def crcSeq (bytes : List Byte) : Half := bytes.foldl crcByte crcSeed

/-- The body `BUF[0 .. LN8-1]`, in ascending address order (20_memory R66, R67). -/
def State.body (s : State) : List Byte := (List.range s.ln8.toNat).map s.readBuf

/-- `CRC <- c`. -/
def State.setCrc (s : State) (c : Half) : State := { s with crc := c }

/-- `CRCI` (R133). -/
def execCrci (s : State) : Host.Outcome State Fault Refusal :=
  s.unlessFaulted (.next (s.setCrc crcSeed))

/-- `CRCB d` (R134). -/
def execCrcb (d : Byte) (s : State) : Host.Outcome State Fault Refusal :=
  s.unlessFaulted (.next (s.setCrc (crcByte s.crc d)))

/-- `CRCR` (R135). `LN8 <= BUF_SIZE` always holds on the block; where it does not, the body has bytes that do not exist
(20_memory R60; log 6). -/
def execCrcr (s : State) : Host.Outcome State Fault Refusal :=
  s.unlessFaulted <|
    if s.cfg.bufSize < s.ln8.toNat then .fault .bodyBeyondBuf else .next (s.setCrc (crcSeq s.body))

end Sys2Proof.Machine
end

