-- ==== Sys2Proof/Machine/Params.lean ====
section
/-! DEFINITION. Machine/Params.lean: walk initialisation, EINIT and DINIT (42_params R149, R150). -/

namespace Sys2Proof.Machine

/-- Load the walk's state: position, direction and keystream byte. -/
def State.setWalk (s : State) (pos : Nat) (dir : BitVec 1) (x : Byte) : State :=
  { s with pos := BitVec.ofNat 17 pos, dir := dir, xOr := x }

/-- The position `DINIT` loads: `iv_of(CRC)` moved one place against the encode direction, wrapped (R150). -/
def dinitPos (c : Half) (ln8 : Nat) (dir : BitVec 1) : Nat :=
  let i := (ivOf c).toNat
  if dir = 1 then (if i + 1 = ln8 then 0 else i + 1) else (if i = 0 then ln8 - 1 else i - 1)

/-- `EINIT`: position, direction and keystream byte from `CRC` (R149). -/
def execEinit (s : State) : Host.Outcome State Fault Refusal :=
  s.unlessFaulted (.next (s.setWalk (ivOf s.crc).toNat (pwrdOf s.crc) (xor0Of s.crc)))

/-- `DINIT dir, x`: direction and keystream byte from the operands, position from `CRC` and `LN8` (R150). -/
def execDinit (dir : BitVec 1) (x : Byte) (s : State) : Host.Outcome State Fault Refusal :=
  s.unlessFaulted (.next (s.setWalk (dinitPos s.crc s.ln8.toNat dir) dir x))

end Sys2Proof.Machine
end

