-- ==== Sys2Proof/Machine/Rotate.lean ====
section
/-! DEFINITION. Machine/Rotate.lean: the rotation unit (40_rotate R120, R121) and ROL, ROLR, ROR, RORR (R122 to R125). -/

namespace Sys2Proof.Machine

/-- `rotl8(v, n)`: rotate left by `n mod 8` (R120). -/
def rotl8 (v : Byte) (n : Nat) : Byte :=
  let k := n % 8
  if k = 0 then v else (v <<< k) ||| (v >>> (8 - k))

/-- `rotr8(v, n)`: rotate right by `n mod 8` (R121). -/
def rotr8 (v : Byte) (n : Nat) : Byte :=
  let k := n % 8
  if k = 0 then v else (v >>> k) ||| (v <<< (8 - k))

/-- `ROT <- v`. -/
def State.setRot (s : State) (v : Byte) : State := { s with rot := v }

/-- `ROL v, n` (R122). -/
def execRol (v : Byte) (n : Nat) (s : State) : Host.Outcome State Fault Refusal :=
  s.unlessFaulted (.next (s.setRot (rotl8 v n)))

/-- `ROLR n` (R123). -/
def execRolr (n : Nat) (s : State) : Host.Outcome State Fault Refusal :=
  s.unlessFaulted (.next (s.setRot (rotl8 s.rot n)))

/-- `ROR v, n` (R124). -/
def execRor (v : Byte) (n : Nat) (s : State) : Host.Outcome State Fault Refusal :=
  s.unlessFaulted (.next (s.setRot (rotr8 v n)))

/-- `RORR n` (R125). -/
def execRorr (n : Nat) (s : State) : Host.Outcome State Fault Refusal :=
  s.unlessFaulted (.next (s.setRot (rotr8 s.rot n)))

end Sys2Proof.Machine
end

