-- ==== Sys2Proof/Machine/Walk.lean ====
section
/-! DEFINITION. Machine/Walk.lean: the walk engine, ESTEP, DSTEP, EWALK, DWALK (43_walk R160 to R167). -/

namespace Sys2Proof.Machine

/-- `bs[3:0]`, the low nibble (R162). -/
def lowNibble (bs : Byte) : Nat := (bs.extractLsb' 0 4).toNat

/-- `bs[7:4]`, the high nibble (R162). -/
def highNibble (bs : Byte) : Nat := (bs.extractLsb' 4 4).toNat

/-- `estep(b, k, x) = (c, x')`, the encode step: the new byte and the new keystream byte (R162). -/
def estep (b k x : Byte) : Byte × Byte :=
  let t := b ^^^ x ^^^ k
  let bs := k ^^^ x
  let c := rotr8 (rotl8 t (lowNibble bs)) (highNibble bs)
  (c, x ^^^ c)

/-- `dstep(c, k, x') = (b, x)`, the decode step: the recovered byte and the earlier keystream byte (R164). -/
def dstep (c k x' : Byte) : Byte × Byte :=
  let x := x' ^^^ c
  let bs := k ^^^ x
  let t := rotr8 (rotl8 c (highNibble bs)) (lowNibble bs)
  (t ^^^ k ^^^ x, x)

/-- The key byte of a step at the current position: `KEY[POS mod KLEN]` (R161). -/
def State.keyByte (s : State) : Byte := s.readKey (keyIndex s.pos.toNat s.klen.toNat)

/-- The effect of one iteration: write the byte at `POS`, then `X_OR`, then move `POS` (20_memory R66). -/
def State.stepTo (s : State) (r : Byte × Byte) (pos : Nat) : State :=
  { s.writeBuf s.pos.toNat r.1 with xOr := r.2, pos := BitVec.ofNat 17 pos }

/-- The body of `ESTEP` without its fault check (R163, R166). -/
def encodeStep (s : State) : State :=
  s.stepTo (estep (s.readBuf s.pos.toNat) s.keyByte s.xOr) (encAdv s.pos.toNat s.ln8.toNat s.dir)

/-- The body of `DSTEP` without its fault check (R165, R167). -/
def decodeStep (s : State) : State :=
  s.stepTo (dstep (s.readBuf s.pos.toNat) s.keyByte s.xOr) (decAdv s.pos.toNat s.ln8.toNat s.dir)

/-- `repeat n times: f` (R166, R167). -/
def repeatStep (f : State → State) : Nat → State → State
  | 0, s => s
  | n + 1, s => repeatStep f n (f s)

/-- What every step and walk command checks before it changes anything: ignored in the fault state (60_exceptions R234),
`ERR_POS` if `POS >= LN8` (R163). Then the addresses the engine would use must exist, which they do in every state the
spec allows (20_memory R60, R61; log 6). -/
def State.engine (s : State) (k : State) : Host.Outcome State Fault Refusal :=
  s.unlessFaulted <|
    if s.ln8.toNat ≤ s.pos.toNat then .next (s.raise .pos)
    else if s.cfg.bufSize < s.ln8.toNat then .fault .bodyBeyondBuf
    else if s.klen.toNat = 0 ∨ s.cfg.keySize < s.klen.toNat then .fault .keyBeyondKey
    else .next k

/-- `ESTEP` (R163). -/
def execEstep (s : State) : Host.Outcome State Fault Refusal := s.engine (encodeStep s)

/-- `DSTEP` (R165). -/
def execDstep (s : State) : Host.Outcome State Fault Refusal := s.engine (decodeStep s)

/-- `EWALK`: `LN8` encode iterations, the count read at the start (R166). -/
def execEwalk (s : State) : Host.Outcome State Fault Refusal := s.engine (repeatStep encodeStep s.ln8.toNat s)

/-- `DWALK`: `LN8` decode iterations, the count read at the start (R167). -/
def execDwalk (s : State) : Host.Outcome State Fault Refusal := s.engine (repeatStep decodeStep s.ln8.toNat s)

end Sys2Proof.Machine
end

