-- ==== Sys2Proof/Machine/Dispatch.lean ====
section
/-! DEFINITION. Machine/Dispatch.lean: one arm per command (30_encoding R98), each a call of its meaning. -/

namespace Sys2Proof.Machine

def exec (i : Instr) (s : State) : Host.Outcome State Fault Refusal :=
  match i with
  | .nop => Sys2Proof.Machine.execNop s
  | .rst => Sys2Proof.Machine.execRst s
  | .wrr r v => Sys2Proof.Machine.execWrr r v s
  | .rdr r => Sys2Proof.Machine.execRdr r s
  | .stb a d => Sys2Proof.Machine.execStb a d s
  | .ldb a => Sys2Proof.Machine.execLdb a s
  | .stk a d => Sys2Proof.Machine.execStk a d s
  | .rol v n => Sys2Proof.Machine.execRol v n s
  | .rolr n => Sys2Proof.Machine.execRolr n s
  | .ror v n => Sys2Proof.Machine.execRor v n s
  | .rorr n => Sys2Proof.Machine.execRorr n s
  | .crci => Sys2Proof.Machine.execCrci s
  | .crcb d => Sys2Proof.Machine.execCrcb d s
  | .crcr => Sys2Proof.Machine.execCrcr s
  | .einit => Sys2Proof.Machine.execEinit s
  | .dinit dir x => Sys2Proof.Machine.execDinit dir x s
  | .estep => Sys2Proof.Machine.execEstep s
  | .dstep => Sys2Proof.Machine.execDstep s
  | .ewalk => Sys2Proof.Machine.execEwalk s
  | .dwalk => Sys2Proof.Machine.execDwalk s

end Sys2Proof.Machine
end

