-- ==== Sys2Proof/Machine/Step.lean ====
section
/-! DEFINITION. Machine/Step.lean: one step of the machine is one transaction of the host (10_state R33). -/

namespace Sys2Proof.Machine

/-- What one command word does: the effect of its command, or the fault its encoding raises (10_state R35,
60_exceptions R233). In the fault state `raise` leaves the first code, so the word is ignored (R234). -/
def execWord (w : Word) (s : State) : Host.Outcome State Fault Refusal :=
  match decode w with
  | .ok i => exec i s
  | .error e => .next (s.raise (rejectCode e))

/-- What one transaction of the host does (10_state R33, 70_reset R260). -/
def transact (x : Transaction) (s : State) : Host.Outcome State Fault Refusal :=
  match x with
  | .command w => execWord w s
  | .reset => .next s.resetRegisters

/-- One step: the block takes the host's next transaction and carries it out completely. With none pending it is idle and
nothing changes (60_exceptions R239; log 2). -/
def step (s : State) : Host.Outcome State Fault Refusal :=
  match s.nextTransaction with
  | none => .next s
  | some (x, t) => transact x t

/-- The state in which the very next step runs the word whose low `nbits` bits are those of `w`: the host presents that
word before anything else (10_state R28, R33; log 3). -/
def State.withFetchWord (s : State) (nbits w : Nat) : State := s.present (BitVec.ofNat 32 (w % 2 ^ nbits))

end Sys2Proof.Machine
end

