-- ==== Sys2Proof/Machine/Pseudo.lean ====
section
/-! DEFINITION. Machine/Pseudo.lean: the pseudo-commands, fixed expansions into commands with no encoding of their own
(30_encoding R105). -/

namespace Sys2Proof.Machine

/-- `STB 0, b0; STB 1, b1; ...`, from address `a` up. -/
def storeBuf : Nat → List Byte → List Instr
  | _, [] => []
  | a, b :: bs => .stb a b :: storeBuf (a + 1) bs

/-- `STK 0, b0; STK 1, b1; ...`, from address `a` up. -/
def storeKey : Nat → List Byte → List Instr
  | _, [] => []
  | a, b :: bs => .stk a b :: storeKey (a + 1) bs

/-- `LDKEY b0, ..., b(m-1)`: the key bytes, then `WRR KLEN, m` (R105). -/
def ldKey (bs : List Byte) : List Instr := storeKey 0 bs ++ [.wrr 4 bs.length]

/-- `LDBODY b0, ..., b(m-1)`: `WRR LN8, m`, then the body bytes (R105). -/
def ldBody (bs : List Byte) : List Instr := .wrr 3 bs.length :: storeBuf 0 bs

/-- `CRCS b0, ..., b(m-1)`: seed, then one `CRCB` a byte (R105). -/
def crcs (bs : List Byte) : List Instr := .crci :: bs.map .crcb

/-- `ENCBODY` (R105). -/
def encBody : List Instr := [.crcr, .einit, .ewalk]

/-- `DECBODY crc, dir, x` (R105). -/
def decBody (crc : Half) (dir : BitVec 1) (x : Byte) : List Instr := [.wrr 0 crc.toNat, .dinit dir x, .dwalk]

end Sys2Proof.Machine
end

