-- ==== Sys2Proof/Safety.lean ====
section
/-! DEFINITION. Safety.lean: the terms the statements use: the invariant of 70_reset R266, the next state of an outcome, runs
over a list of the host's words (20_memory R70) and fault-free states (60_exceptions R236). -/

namespace Sys2Proof.Machine

/-- The next state of an outcome, if there is one. -/
def nextOf : Host.Outcome State Fault Refusal → Option State
  | .next s => some s
  | .fault _ => none
  | .refused _ => none

/-- The outcome `k` of the next state, or the stop that came first. -/
def andThen (o : Host.Outcome State Fault Refusal) (k : State → Host.Outcome State Fault Refusal) :
    Host.Outcome State Fault Refusal :=
  match o with
  | .next s => k s
  | .fault f => .fault f
  | .refused r => .refused r

/-- The words of a list, one after another: `exec(... exec(exec(s0, w1), w2) ..., wn)` (20_memory R70). -/
def runWords : List Word → State → Host.Outcome State Fault Refusal
  | [], s => .next s
  | w :: ws, s => andThen (execWord w s) (runWords ws)

/-- The commands of a list, one after another. -/
def runInstrs : List Instr → State → Host.Outcome State Fault Refusal
  | [], s => .next s
  | i :: is, s => andThen (exec i s) (runInstrs is)

/-- `LN8` holds a legal value: a multiple of 8 from 8 to `BUF_SIZE` (10_state R24). -/
abbrev State.LegalLn8 (s : State) : Prop := s.ln8.toNat % 8 = 0 ∧ 8 ≤ s.ln8.toNat ∧ s.ln8.toNat ≤ s.cfg.bufSize

/-- `KLEN` holds a legal value: a multiple of 8 from 8 to `KEY_SIZE` (10_state R25). -/
abbrev State.LegalKlen (s : State) : Prop := s.klen.toNat % 8 = 0 ∧ 8 ≤ s.klen.toNat ∧ s.klen.toNat ≤ s.cfg.keySize

/-- The invariant of the block: R266 (a), (b) and (c), both memories in canonical form with no address that does not
exist, and parameters the spec allows (00_scope R8, R9). R266 (d), the widths, holds by the types. -/
abbrev State.Inv (s : State) : Prop :=
  s.LegalLn8 ∧ s.LegalKlen ∧ s.err.toNat ≤ 6 ∧ s.buf.wf s.cfg.bufSize = true ∧ s.key.wf s.cfg.keySize = true ∧ s.cfg.Legal

/-- The normal state, in which no fault is recorded; a run in which `ERR` becomes non-zero is a faulted run
(60_exceptions R234, R236). -/
abbrev State.Normal (s : State) : Prop := s.err = 0

/-- A step or walk command can run: no fault recorded and the position inside the body (43_walk R163). -/
abbrev State.CanStep (s : State) : Prop := s.Normal ∧ s.pos.toNat < s.ln8.toNat ∧ s.LegalLn8 ∧ s.LegalKlen

end Sys2Proof.Machine
end

