-- ==== Sys2Proof/Machine/Codec.lean ====
section
/-! DEFINITION. Machine/Codec.lean: the host's procedures around the block (45_host_sequences R201 to R210, 20_memory R68).
They are outside the block (00_scope R5) and change no command (R200); each drives the block through commands and what
`rsp` shows. Text encoding (R211) is left out with R5; the base64 wrapper (R212) is in Machine/Text.lean. -/

namespace Sys2Proof.Machine

/-- The error kinds the host reports (R210), and the host's own refusal where the spec names no kind (log 13). -/
inductive HostError where
  | emptyInput
  | weakKey
  | wrongKey
  | integrityError
  | malformedFrame
  /-- The input does not fit this block or the frame format and no error kind is named for it: a password longer than
  `KEY_SIZE` (R202), a payload above 65535 bytes (91 N12), a block that records a fault, a text that is not base64 (R212). -/
  | refusedByHost
deriving DecidableEq, Repr

/-- The random values one encode draws, as free inputs (R213): `random4`, the filler of the direction byte, the salt. -/
structure Randoms where
  random4 : Vector Byte 4
  filler : BitVec 7
  salt : Half
deriving DecidableEq, Repr

/-- Password normalisation: repeat the first character up to the next multiple of 8 (R201). A password is a list of
character bytes (R202; log 14). -/
def normalise : List Byte → List Byte
  | [] => []
  | c :: cs => (c :: cs) ++ List.replicate ((8 - (c :: cs).length % 8) % 8) c

/-- `ln8 = ceil((len+2)/8)*8 + 8` (R203). -/
def bodyLength (len : Nat) : Nat := (len + 2 + 7) / 8 * 8 + 8

/-- `pad[i] = random4[i mod 4]` (R204). -/
def padByte (rnd : Randoms) (i : Nat) : Byte := rnd.random4[i % 4]'(Nat.mod_lt _ (by decide))

/-- The plain body: `len` little-endian, the payload, the pad (R204, 20_memory R68). -/
def plainBody (payload : List Byte) (rnd : Randoms) : List Byte :=
  [BitVec.ofNat 8 payload.length, BitVec.ofNat 8 (payload.length / 256)] ++ payload ++
    (List.range (bodyLength payload.length - (2 + payload.length))).map (padByte rnd)

/-- `repeat16(b) = (b << 8) | b` (00_scope R13). -/
def repeat16 (b : Byte) : Half := b ++ b

/-- The trailer: `crc_x` little-endian, `x_final`, `dir_byte`, `salt` little-endian (R206, 20_memory R68). -/
def trailer (crc : Half) (xFinal : Byte) (dir : BitVec 1) (rnd : Randoms) : List Byte :=
  let crcX := crc ^^^ repeat16 xFinal
  [lo8 crcX, hi8 crcX, xFinal, rnd.filler ++ dir, lo8 rnd.salt, hi8 rnd.salt]

/-- The salt byte of frame offset `i`: low byte at even offsets, high byte at odd ones (R207). -/
def saltByte (salt : Half) (i : Nat) : Byte := if i % 2 = 0 then lo8 salt else hi8 salt

/-- XOR the bytes from offset `i` on, all but the last two, with the cycling salt (R207). -/
def saltFrom (salt : Half) : Nat → List Byte → List Byte
  | i, a :: b :: c :: rest => (a ^^^ saltByte salt i) :: saltFrom salt (i + 1) (b :: c :: rest)
  | _, short => short

/-- `saltBytes(buf, salt)`: the salting pass over a whole frame (R207). -/
def saltBytes (frame : List Byte) (salt : Half) : List Byte := saltFrom salt 0 frame

/-- The host issues a command and samples `rsp` (10_state R33). -/
def ask (i : Instr) (s : State) : Option (State × Word) := (nextOf (exec i s)).map fun t => (t, t.rsp)

/-- The host reads `n` bytes of `BUF` from address `a` up, one `LDB` each. -/
def readBack : Nat → Nat → State → Option (State × List Byte)
  | 0, _, s => some (s, [])
  | n + 1, a, s =>
    match ask (.ldb a) s with
    | none => none
    | some (t, v) => (readBack n (a + 1) t).map fun r => (r.1, v.truncate 8 :: r.2)

/-- What the entry points refuse first: an empty input and a password below 6 characters (R210, R211). Their order when
both apply is a free value (log 12). -/
def entryCheck (input pw : List Byte) : Option HostError :=
  if input.isEmpty ∧ pw.length < 6 then
    some (if Config.weakKeyFirst then .weakKey else .emptyInput)
  else if input.isEmpty then some .emptyInput
  else if pw.length < 6 then some .weakKey
  else none

/-- The block's share of an encode, and what the host reads back: the scrambled body, the pre-walk CRC, the final keystream
byte and the direction (R202, R204, R205). The last question is `RDR ERR`. -/
def encodeOnBlock (body pwd : List Byte) (s : State) : Option (State × List Byte × Half × Byte × BitVec 1 × Word) := do
  let s ← nextOf (runInstrs (ldKey pwd ++ ldBody body ++ encBody) s)
  let (s, crc) ← ask (.rdr 0) s
  let (s, x) ← ask (.rdr 1) s
  let (s, d) ← ask (.rdr 5) s
  let (s, scrambled) ← readBack body.length 0 s
  let (s, err) ← ask (.rdr 10) s
  return (s, scrambled, crc.truncate 16, x.truncate 8, d.truncate 1, err)

/-- `encode(payload, password)`: the frame, and the block afterwards (R203 to R207, R211). -/
def encodeFrame (payload pw : List Byte) (rnd : Randoms) (s : State) : Except HostError (List Byte × State) :=
  match entryCheck payload pw with
  | some e => .error e
  | none =>
    let pwd := normalise pw
    if 65535 < payload.length ∨ s.cfg.keySize < pwd.length then .error .refusedByHost
    else
      match encodeOnBlock (plainBody payload rnd) pwd s with
      | none => .error .refusedByHost
      | some (t, scrambled, crc, x, d, err) =>
        if err = 0 then .ok (saltBytes (scrambled ++ trailer crc x d rnd) rnd.salt, t) else .error .refusedByHost

/-- The fields of an unsalted frame of body length `ln8`: the body, the recovered `crc`, `x_final` and the direction bit
(R208). -/
def parseFrame (frame : List Byte) (ln8 : Nat) : List Byte × Half × Byte × BitVec 1 :=
  let at' := fun i => frame.getD i 0
  let xFinal := at' (ln8 + 2)
  (frame.take ln8, (at' (ln8 + 1) ++ at' ln8 : Half) ^^^ repeat16 xFinal, xFinal, (at' (ln8 + 3)).extractLsb' 0 1)

/-- The host issues commands and then reads `RDR ERR`: the block as it then is, `onVal` where `ERR_VAL` is recorded, and
`refusedByHost` where another fault is (R210: "a correct host never causes one"; log 13). -/
def issue (is : List Instr) (onVal : HostError) (s : State) : Except HostError State :=
  match (nextOf (runInstrs is s)).bind (ask (.rdr 10)) with
  | none => .error .refusedByHost
  | some (t, err) =>
    if err = 0 then .ok t
    else if err = FaultCode.val.code.zeroExtend 32 then .error onVal
    else .error .refusedByHost

/-- The block's share of a decode up to the walk, in R208's order: the key, `WRR LN8`, the body, then `DECBODY`. The host
looks at `ERR` after each part, so that `MalformedFrame` stands for `ERR_VAL` of `WRR LN8` alone, and a fault that was there
before or that the key caused is `refusedByHost` (log 13). -/
def decodeOnBlock (body pwd : List Byte) (crc : Half) (dir : BitVec 1) (x : Byte) (s : State) : Except HostError State := do
  let s ← issue (ldKey pwd) .refusedByHost s
  let s ← issue [.wrr 3 body.length] .malformedFrame s
  issue (storeBuf 0 body ++ decBody crc dir x) .refusedByHost s

/-- What the host reads after the walk: `RDR X_OR`, `RDR X0`, and after `CRCR` the recomputed CRC and the body (R209). -/
def readAfterWalk (ln8 : Nat) (s : State) : Option (State × Byte × Byte × Half × List Byte) := do
  let (s, xOr) ← ask (.rdr 1) s
  let (s, x0) ← ask (.rdr 9) s
  let s ← nextOf (exec .crcr s)
  let (s, crc) ← ask (.rdr 0) s
  let (s, plain) ← readBack ln8 0 s
  return (s, xOr.truncate 8, x0.truncate 8, crc.truncate 16, plain)

/-- What decode refuses before it looks into the frame: an input of 1 to 5 bytes before anything else (R208, 90_conflicts
C6), then what every entry point refuses (R210, R211). -/
def decodeCheck (frame pw : List Byte) : Option HostError :=
  if 1 ≤ frame.length ∧ frame.length < 6 then some .malformedFrame else entryCheck frame pw

/-- The checks after the walk: the keystream check comes first, then the integrity check, then the length prefix (R209,
90_conflicts C6, C9). -/
def decodeResult (ln8 : Nat) (crc : Half) (s : State) : Except HostError (List Byte × State) :=
  match readAfterWalk ln8 s with
  | none => .error .refusedByHost
  | some (t, xOr, x0, crc', plain) =>
    if xOr ≠ x0 then .error .wrongKey
    else if crc' ≠ crc then .error .integrityError
    else
      let len := (plain.getD 0 0).toNat + (plain.getD 1 0).toNat * 256
      if ln8 - 2 < len then .error .malformedFrame else .ok ((plain.drop 2).take len, t)

/-- `decode(frame, password)`: the payload, and the block afterwards (R208 to R211). DESIGN CHOICE (log 17): where several
refusals apply and the spec gives them no order, a normalised password longer than `KEY_SIZE` is refused before the block
is used, a block that holds a fault is refused before the body length is tried, and an illegal body length comes last. -/
def decodeFrame (frame pw : List Byte) (s : State) : Except HostError (List Byte × State) :=
  match decodeCheck frame pw with
  | some e => .error e
  | none =>
    let pwd := normalise pw
    let n := frame.length
    if s.cfg.keySize < pwd.length then .error .refusedByHost
    else
      let salt : Half := frame.getD (n - 1) 0 ++ frame.getD (n - 2) 0
      let (body, crc, x, dir) := parseFrame (saltBytes frame salt) (n - 6)
      match decodeOnBlock body pwd crc dir x s with
      | .error e => .error e
      | .ok t => decodeResult body.length crc t

end Sys2Proof.Machine
end

