-- ==== Sys2Proof/Certificates/Slice0/Obligations.lean ====
section
/-! DEFINITION. Certificates/Slice0/Obligations.lean: the statements about the block, each from the rules of spec/ its
docstring names. `s.Normal` is `ERR = 0`; `s.LegalLn8` and `s.LegalKlen` say that the length registers hold legal values,
which they do in every reachable state (70_reset R266) and which `StepKeepsTheInvariant` states of every step. -/

open Sys2Proof Sys2Proof.Machine

/-! ## Encoding -/

/-- Decoding the word of a well-formed command gives the command back (30_encoding R90 to R99). -/
def Obligations.DecodeOfEncodeIsTheCommand : Prop :=
  ∀ i : Instr, i.wellFormed = true → decode (encode i) = .ok i

/-- A word that decodes is the encoding of what it decodes to, which is well-formed: each command has one word
(30_encoding R90 to R99). -/
def Obligations.EncodeOfDecodeIsTheWord : Prop :=
  ∀ (w : Word) (i : Instr), decode w = .ok i → encode i = w ∧ i.wellFormed = true

/-- Format N (30_encoding R91): which words are the nine commands without an operand. -/
def Obligations.FormatNWordsHaveNoOperandBits : Prop :=
  ∀ w : Word, ∀ p ∈ [(Instr.nop, 0x00), (.rst, 0x01), (.crci, 0x0A), (.crcr, 0x0C), (.einit, 0x10), (.estep, 0x12),
      (.dstep, 0x13), (.ewalk, 0x14), (.dwalk, 0x15)],
    (decode w = .ok p.1 ↔ (w.extractLsb' 27 5).toNat = p.2 ∧ w.extractLsb' 0 27 = 0)

/-- Formats I, R and D (30_encoding R92, R93, R96): which words are `CRCB`, `WRR`, `RDR`, `DINIT`, and where each operand
is read. -/
def Obligations.FormatIRDWordsHoldTheirOperands : Prop :=
  ∀ w : Word,
    (∀ d, decode w = .ok (.crcb d) ↔
      w.extractLsb' 27 5 = 0x0B ∧ w.extractLsb' 8 19 = 0 ∧ w.extractLsb' 0 8 = d) ∧
    (∀ r v, decode w = .ok (.wrr r v) ↔
      w.extractLsb' 27 5 = 0x02 ∧ (w.extractLsb' 22 5).toNat = r ∧ w.extractLsb' 17 5 = 0 ∧
        (w.extractLsb' 0 17).toNat = v) ∧
    (∀ r, decode w = .ok (.rdr r) ↔
      w.extractLsb' 27 5 = 0x03 ∧ (w.extractLsb' 22 5).toNat = r ∧ w.extractLsb' 17 5 = 0 ∧ w.extractLsb' 0 17 = 0) ∧
    (∀ dir x, decode w = .ok (.dinit dir x) ↔
      w.extractLsb' 27 5 = 0x11 ∧ w.extractLsb' 9 18 = 0 ∧ w.extractLsb' 8 1 = dir ∧ w.extractLsb' 0 8 = x)

/-- Formats M and T (30_encoding R94, R95): which words are `STB`, `LDB`, `STK` and the four rotates, and where each
operand is read. -/
def Obligations.FormatMTWordsHoldTheirOperands : Prop :=
  ∀ w : Word,
    (∀ a d, decode w = .ok (.stb a d) ↔
      w.extractLsb' 27 5 = 0x04 ∧ w.extractLsb' 25 2 = 0 ∧ (w.extractLsb' 8 17).toNat = a ∧ w.extractLsb' 0 8 = d) ∧
    (∀ a, decode w = .ok (.ldb a) ↔
      w.extractLsb' 27 5 = 0x05 ∧ w.extractLsb' 25 2 = 0 ∧ (w.extractLsb' 8 17).toNat = a ∧ w.extractLsb' 0 8 = 0) ∧
    (∀ a d, decode w = .ok (.stk a d) ↔
      w.extractLsb' 27 5 = 0x06 ∧ w.extractLsb' 25 2 = 0 ∧ (w.extractLsb' 8 17).toNat = a ∧ w.extractLsb' 0 8 = d) ∧
    (∀ v n, decode w = .ok (.rol v n) ↔
      w.extractLsb' 27 5 = 0x08 ∧ w.extractLsb' 17 10 = 0 ∧ w.extractLsb' 16 1 = 0 ∧ w.extractLsb' 8 8 = v ∧
        (w.extractLsb' 0 8).toNat = n) ∧
    (∀ n, decode w = .ok (.rolr n) ↔
      w.extractLsb' 27 5 = 0x08 ∧ w.extractLsb' 17 10 = 0 ∧ w.extractLsb' 16 1 = 1 ∧ w.extractLsb' 8 8 = 0 ∧
        (w.extractLsb' 0 8).toNat = n) ∧
    (∀ v n, decode w = .ok (.ror v n) ↔
      w.extractLsb' 27 5 = 0x09 ∧ w.extractLsb' 17 10 = 0 ∧ w.extractLsb' 16 1 = 0 ∧ w.extractLsb' 8 8 = v ∧
        (w.extractLsb' 0 8).toNat = n) ∧
    (∀ n, decode w = .ok (.rorr n) ↔
      w.extractLsb' 27 5 = 0x09 ∧ w.extractLsb' 17 10 = 0 ∧ w.extractLsb' 16 1 = 1 ∧ w.extractLsb' 8 8 = 0 ∧
        (w.extractLsb' 0 8).toNat = n)

/-- The opcode map (30_encoding R98): a word is the command of a row if and only if `W & mask == match`, the rows are
disjoint, and in the normal state a word that matches no row faults. -/
def Obligations.OpcodeMapSelectsTheCommand : Prop :=
  (∀ row ∈ opcodeMap, ∀ w : Word,
    (w &&& row.mask = row.pattern ↔ ∃ i, decode w = .ok i ∧ i.mnemonic = row.mnemonic)) ∧
  (opcodeMap.Pairwise fun a b => ∀ w : Word, ¬ (w &&& a.mask = a.pattern ∧ w &&& b.mask = b.pattern)) ∧
  (∀ (w : Word) (s : State), s.Normal → (∀ row ∈ opcodeMap, w &&& row.mask ≠ row.pattern) →
    execWord w s = .next { s with err := 1 } ∨ execWord w s = .next { s with err := 2 })

/-- Undefined opcodes (30_encoding R100): in the normal state such a word records `ERR_OP` and does nothing else; every word
matches exactly one row of the map or faults with `ERR_OP` or `ERR_RSV`. -/
def Obligations.UndefinedOpcodesFault : Prop :=
  (∀ (w : Word) (s : State), s.Normal →
    ((w.extractLsb' 27 5).toNat ∈ [0x07, 0x0D, 0x0E, 0x0F] ∨ 0x16 ≤ (w.extractLsb' 27 5).toNat) →
    execWord w s = .next { s with err := 1 }) ∧
  (∀ (w : Word) (s : State), s.Normal →
    (∃! row, row ∈ opcodeMap ∧ w &&& row.mask = row.pattern) ∨
    ((¬ ∃ row, row ∈ opcodeMap ∧ w &&& row.mask = row.pattern) ∧
      (execWord w s = .next { s with err := 1 } ∨ execWord w s = .next { s with err := 2 })))

/-- Reserved fields (30_encoding R101): a defined opcode with a reserved or must-be-zero bit set records `ERR_RSV` in the
normal state and does nothing else; the list is R101's. -/
def Obligations.ReservedFieldsFault : Prop :=
  ∀ (w : Word) (s : State), s.Normal →
    let op := (w.extractLsb' 27 5).toNat
    ((op ∈ [0x00, 0x01, 0x0A, 0x0C, 0x10, 0x12, 0x13, 0x14, 0x15] ∧ w.extractLsb' 0 27 ≠ 0) ∨
      (op = 0x0B ∧ w.extractLsb' 8 19 ≠ 0) ∨
      (op ∈ [0x02, 0x03] ∧ w.extractLsb' 17 5 ≠ 0) ∨
      (op = 0x03 ∧ w.extractLsb' 0 17 ≠ 0) ∨
      (op ∈ [0x04, 0x05, 0x06] ∧ w.extractLsb' 25 2 ≠ 0) ∨
      (op = 0x05 ∧ w.extractLsb' 0 8 ≠ 0) ∨
      (op ∈ [0x08, 0x09] ∧ w.extractLsb' 17 10 ≠ 0) ∨
      (op ∈ [0x08, 0x09] ∧ w.extractLsb' 16 1 = 1 ∧ w.extractLsb' 8 8 ≠ 0) ∨
      (op = 0x11 ∧ w.extractLsb' 9 18 ≠ 0)) →
    execWord w s = .next { s with err := 2 }

/-- Words written out in the spec (30_encoding R99; 40_rotate R122; 41_crc R134; 44_access_system R183) decode to the
commands they stand for. -/
def Obligations.ExampleWordsDecode : Prop :=
  decode 0x20000A33 = .ok (.stb 0x0A 0x33) ∧ decode 0x10C00010 = .ok (.wrr 3 16) ∧
  decode 0x880001B9 = .ok (.dinit 1 0xB9) ∧ decode 0x40008101 = .ok (.rol 0x81 1) ∧
  decode 0x58000068 = .ok (.crcb 0x68) ∧ decode 0x1A400000 = .ok (.rdr 9) ∧ decode 0xA0000000 = .ok .ewalk

/-! ## Steps, faults and the fault state -/

/-- A step runs the decoded command: where the host's next transaction is a word that decodes to `i`, the step is `exec` of
`i` in the state with that transaction taken, and nothing else is added (10_state R33, R35; log 1). -/
def Obligations.StepRunsTheDecodedCommand : Prop :=
  ∀ (s : State) (w : Word) (rest : List Transaction) (i : Instr),
    s.input = .command w :: rest → decode w = .ok i → i.wellFormed = true → step s = exec i { s with input := rest }

/-- The step of a word that is no command: in the normal state it records `ERR_OP` or `ERR_RSV` and nothing else, in the
fault state it is ignored (60_exceptions R233, R234; log 1). -/
def Obligations.StepOnARejectedWordRecordsTheFault : Prop :=
  ∀ (s : State) (w : Word) (rest : List Transaction), s.input = .command w :: rest →
    (s.err = 0 → decode w = .error .undefinedOpcode → step s = .next { s with input := rest, err := 1 }) ∧
    (s.err = 0 → decode w = .error .reservedField → step s = .next { s with input := rest, err := 2 }) ∧
    (s.err ≠ 0 → (∀ i, decode w ≠ .ok i) → step s = .next { s with input := rest })

/-- THE MODEL'S CHOICE (log 2; 60_exceptions R239 "the block is idle between commands"): with no transaction pending, a
step changes nothing. -/
def Obligations.StepWithNothingPendingIsIdle : Prop :=
  ∀ s : State, s.input = [] → step s = .next s

/-- Commands take effect one at a time in issue order (20_memory R70): as many steps as there are words give the fold of
`execWord` over the words, and leave whatever else is pending after them. That the words stand in a list of pending
transactions is the model's choice (log 1). -/
def Obligations.CommandsTakeEffectInIssueOrder : Prop :=
  ∀ (ws : List Word) (rest : List Transaction) (s : State),
    Host.Core.run Sys2Proof.core ws.length { s with input := ws.map .command ++ rest } =
      runWords ws { s with input := rest }

/-- The hardware reset input has the effect of `RST` (70_reset R260), in every state; as a transaction of its
own it is the model's choice (log 1, log 8). -/
def Obligations.ResetInputActsAsRst : Prop :=
  ∀ (s : State) (rest : List Transaction), s.input = .reset :: rest →
    step s = exec .rst { s with input := rest } ∧
    ∃ t, step s = .next t ∧ t = { s with
      crc := 0xAAAA, xOr := 0, pos := 0, ln8 := 8, klen := 8, dir := 0, rot := 0, err := 0, rsp := 0, input := rest }

/-- The state after reset meets the invariant (10_state R40, 70_reset R266). -/
def Obligations.ResetMeetsTheInvariant : Prop := State.reset.Inv

/-- Every step keeps the invariant: legal `LN8` and `KLEN`, `ERR <= 6`, memories in canonical form with no address that does
not exist, legal parameters (70_reset R266). -/
def Obligations.StepKeepsTheInvariant : Prop :=
  ∀ s t : State, s.Inv → step s = .next t → t.Inv

/-- From a state that meets the invariant every run completes, of any length and whatever the host does, and ends in such a
state: no step stops the machine (10_state R35, 70_reset R266). -/
def Obligations.EveryRunCompletes : Prop :=
  ∀ (n : Nat) (s : State), s.Inv → ∃ t : State, Host.Core.run Sys2Proof.core n s = .next t ∧ t.Inv

/-- The position stays inside the body under every step but a `WRR` of `POS` or of `LN8`, the two that 70_reset R266 says
can break it. -/
def Obligations.PosStaysInTheBody : Prop :=
  ∀ s t : State, s.Inv → s.pos.toNat < s.ln8.toNat → step s = .next t →
    (∀ w rest v, s.input = .command w :: rest → decode w ≠ .ok (.wrr 2 v) ∧ decode w ≠ .ok (.wrr 3 v)) →
    t.pos.toNat < t.ln8.toNat

/-- `CRC` stays even under every step but a `WRR` of an odd value (41_crc R136, 70_reset R266). -/
def Obligations.CrcStaysEven : Prop :=
  ∀ s t : State, s.crc.getLsbD 0 = false → step s = .next t →
    (∀ w rest v, s.input = .command w :: rest → decode w = .ok (.wrr 0 v) → v % 2 = 0) →
    t.crc.getLsbD 0 = false

/-- Faults are precise (60_exceptions R230, R233): a step that records a fault changes `ERR` and nothing else (the
transaction is taken). -/
def Obligations.FaultsArePrecise : Prop :=
  ∀ s t : State, s.err = 0 → step s = .next t → t.err ≠ 0 →
    t = { s with err := t.err, input := s.input.tail }

/-- The fault state (60_exceptions R234): `RST`, `NOP`, `RDR` of a register that exists and `LDB` in range execute, every
other word changes nothing. -/
def Obligations.FaultStateIgnoresOtherWords : Prop :=
  ∀ (s : State) (w : Word), s.err ≠ 0 →
    (decode w = .ok .rst → ∃ t, execWord w s = .next t ∧ exec .rst s = .next t ∧ t.err = 0) ∧
    (decode w = .ok .nop → execWord w s = .next s) ∧
    (∀ r, decode w = .ok (.rdr r) → r ≤ 10 →
      ∃ g, regOfNumber r = some g ∧ execWord w s = .next { s with rsp := s.readReg g }) ∧
    (∀ a, decode w = .ok (.ldb a) → a < s.cfg.bufSize →
      execWord w s = .next { s with rsp := (s.readBuf a).zeroExtend 32 }) ∧
    (decode w ≠ .ok .rst → decode w ≠ .ok .nop → (∀ r, decode w = .ok (.rdr r) → 10 < r) →
      (∀ a, decode w = .ok (.ldb a) → s.cfg.bufSize ≤ a) → execWord w s = .next s)

/-- Once a fault is recorded, no register other than `RSP` and no memory byte changes until reset, and the code stays
(10_state R31, 60_exceptions R235, 70_reset R266). -/
def Obligations.FirstFaultSticksUntilReset : Prop :=
  ∀ s t : State, s.err ≠ 0 → step s = .next t →
    t = { s with rsp := t.rsp, input := s.input.tail } ∨
    (t.err = 0 ∧ ((∃ rest, s.input = .reset :: rest) ∨ ∃ w rest, s.input = .command w :: rest ∧ decode w = .ok .rst))

/-- The fault codes and their causes (60_exceptions R231): after a word in the normal state, `ERR` holds a code exactly when
that code's cause holds of the word and the state. -/
def Obligations.FaultCodesHaveTheirCauses : Prop :=
  ∀ (s t : State) (w : Word), s.err = 0 → execWord w s = .next t →
    let op := (w.extractLsb' 27 5).toNat
    let legal := fun size v : Nat => v % 8 = 0 ∧ 8 ≤ v ∧ v ≤ size
    (t.err = 1 ↔ op ∈ [0x07, 0x0D, 0x0E, 0x0F] ∨ 0x16 ≤ op) ∧
    (t.err = 2 ↔ decode w = .error .reservedField) ∧
    (t.err = 3 ↔ (∃ r v, decode w = .ok (.wrr r v) ∧ 7 ≤ r) ∨ ∃ r, decode w = .ok (.rdr r) ∧ 10 < r) ∧
    (t.err = 4 ↔ ∃ r v k, decode w = .ok (.wrr r v) ∧
      (r, k) ∈ [(0, 16), (1, 8), (2, 17), (3, 17), (4, 17), (5, 1), (6, 8)] ∧
      (2 ^ k ≤ v ∨ (r = 3 ∧ ¬ legal s.cfg.bufSize v) ∨ (r = 4 ∧ ¬ legal s.cfg.keySize v))) ∧
    (t.err = 5 ↔ (∃ a d, decode w = .ok (.stb a d) ∧ s.cfg.bufSize ≤ a) ∨
      (∃ a, decode w = .ok (.ldb a) ∧ s.cfg.bufSize ≤ a) ∨
      ∃ a d, decode w = .ok (.stk a d) ∧ s.cfg.keySize ≤ a) ∧
    (t.err = 6 ↔ (∃ i, decode w = .ok i ∧ i ∈ [Instr.estep, .dstep, .ewalk, .dwalk]) ∧
      s.ln8.toNat ≤ s.pos.toNat) ∧
    t.err.toNat ≤ 6

/-! ## Access and system commands -/

/-- `NOP` changes nothing, in every state (44_access_system R180). -/
def Obligations.NopChangesNothing : Prop := ∀ s : State, exec .nop s = .next s

/-- `RST` puts every register at its reset value, in every state, and leaves both memories (44_access_system R181, 10_state
R40). -/
def Obligations.RstLoadsTheResetValues : Prop :=
  ∀ s : State, ∃ t, exec .rst s = .next t ∧
    t = { s with crc := 0xAAAA, xOr := 0, pos := 0, ln8 := 8, klen := 8, dir := 0, rot := 0, err := 0, rsp := 0 } ∧
    (∀ a, t.readBuf a = s.readBuf a) ∧ (∀ a, t.readKey a = s.readKey a) ∧
    t.readReg .iv = 0 ∧ t.readReg .par = 0 ∧ t.readReg .x0 = 0xAA

/-- `WRR` writes a value the register takes, and changes nothing else (44_access_system R182, 10_state R21). -/
def Obligations.WrrWritesTheRegister : Prop :=
  ∀ (s : State) (v : Nat), s.Normal →
    (v < 2 ^ 16 → exec (.wrr 0 v) s = .next { s with crc := BitVec.ofNat 16 v }) ∧
    (v < 2 ^ 8 → exec (.wrr 1 v) s = .next { s with xOr := BitVec.ofNat 8 v }) ∧
    (v < 2 ^ 17 → exec (.wrr 2 v) s = .next { s with pos := BitVec.ofNat 17 v }) ∧
    (v < 2 ^ 17 → v % 8 = 0 → 8 ≤ v → v ≤ s.cfg.bufSize →
      exec (.wrr 3 v) s = .next { s with ln8 := BitVec.ofNat 17 v }) ∧
    (v < 2 ^ 17 → v % 8 = 0 → 8 ≤ v → v ≤ s.cfg.keySize →
      exec (.wrr 4 v) s = .next { s with klen := BitVec.ofNat 17 v }) ∧
    (v < 2 → exec (.wrr 5 v) s = .next { s with dir := BitVec.ofNat 1 v }) ∧
    (v < 2 ^ 8 → exec (.wrr 6 v) s = .next { s with rot := BitVec.ofNat 8 v })

/-- `WRR` of a register that does not exist or is read only records `ERR_REG`; of a value too wide, or not a legal length,
`ERR_VAL`; and nothing else changes. In the fault state it is ignored (44_access_system R182). -/
def Obligations.WrrFaultsInOrder : Prop :=
  ∀ (s : State) (r v : Nat),
    (s.err = 0 → 7 ≤ r → exec (.wrr r v) s = .next { s with err := 3 }) ∧
    (∀ k, s.err = 0 → (r, k) ∈ [(0, 16), (1, 8), (2, 17), (3, 17), (4, 17), (5, 1), (6, 8)] → 2 ^ k ≤ v →
      exec (.wrr r v) s = .next { s with err := 4 }) ∧
    (s.err = 0 → r = 3 → (v % 8 ≠ 0 ∨ v < 8 ∨ s.cfg.bufSize < v) → exec (.wrr r v) s = .next { s with err := 4 }) ∧
    (s.err = 0 → r = 4 → (v % 8 ≠ 0 ∨ v < 8 ∨ s.cfg.keySize < v) → exec (.wrr r v) s = .next { s with err := 4 }) ∧
    (s.err ≠ 0 → exec (.wrr r v) s = .next s)

/-- `RDR` puts the register, zero-extended, into `RSP` and changes nothing else, in every state; a register that does not
exist records `ERR_REG` in the normal state and is ignored in the fault state (44_access_system R183). -/
def Obligations.RdrReadsTheRegister : Prop :=
  ∀ s : State,
    exec (.rdr 0) s = .next { s with rsp := s.crc.zeroExtend 32 } ∧
    exec (.rdr 1) s = .next { s with rsp := s.xOr.zeroExtend 32 } ∧
    exec (.rdr 2) s = .next { s with rsp := s.pos.zeroExtend 32 } ∧
    exec (.rdr 3) s = .next { s with rsp := s.ln8.zeroExtend 32 } ∧
    exec (.rdr 4) s = .next { s with rsp := s.klen.zeroExtend 32 } ∧
    exec (.rdr 5) s = .next { s with rsp := s.dir.zeroExtend 32 } ∧
    exec (.rdr 6) s = .next { s with rsp := s.rot.zeroExtend 32 } ∧
    exec (.rdr 10) s = .next { s with rsp := s.err.zeroExtend 32 } ∧
    ∀ r, 10 < r → (s.err = 0 → exec (.rdr r) s = .next { s with err := 3 }) ∧ (s.err ≠ 0 → exec (.rdr r) s = .next s)

/-- The views (42_params R148): `RDR` of 7, 8, 9 gives the functions of `CRC` at every moment, and a `WRR` to one records
`ERR_REG` and changes nothing else. -/
def Obligations.ViewsFollowCrc : Prop :=
  ∀ s : State,
    exec (.rdr 7) s = .next { s with rsp := (ivOf s.crc).zeroExtend 32 } ∧
    exec (.rdr 8) s = .next { s with rsp := (pwrdOf s.crc).zeroExtend 32 } ∧
    exec (.rdr 9) s = .next { s with rsp := (xor0Of s.crc).zeroExtend 32 } ∧
    (s.err = 0 → ∀ r ∈ [7, 8, 9], ∀ v, exec (.wrr r v) s = .next { s with err := 3 })

/-- `STB` and `STK` store their byte at their address, in `BUF` and in `KEY`, and change nothing else (44_access_system R184,
R186). -/
def Obligations.StoresWriteOneByte : Prop :=
  ∀ (s : State) (a : Nat) (d : Byte), s.Normal →
    (a < s.cfg.bufSize → ∃ t, exec (.stb a d) s = .next t ∧ t = { s with buf := t.buf } ∧
      ∀ b, t.readBuf b = if b = a then d else s.readBuf b) ∧
    (a < s.cfg.keySize → ∃ t, exec (.stk a d) s = .next t ∧ t = { s with key := t.key } ∧
      ∀ b, t.readKey b = if b = a then d else s.readKey b)

/-- `LDB` puts the byte, zero-extended, into `RSP` and changes nothing else, in the fault state too (44_access_system
R185). -/
def Obligations.LdbLoadsOneByte : Prop :=
  ∀ (s : State) (a : Nat), a < s.cfg.bufSize →
    ∃ t, exec (.ldb a) s = .next t ∧ t = { s with rsp := t.rsp } ∧ t.rsp.toNat = (s.readBuf a).toNat

/-- An address beyond the memory: `STB`, `LDB` and `STK` record `ERR_ADR` and access nothing (20_memory R60, R61). -/
def Obligations.AddressesBeyondAMemoryFault : Prop :=
  ∀ (s : State) (a : Nat) (d : Byte), s.Normal →
    (s.cfg.bufSize ≤ a → exec (.stb a d) s = .next { s with err := 5 }) ∧
    (s.cfg.bufSize ≤ a → exec (.ldb a) s = .next { s with err := 5 }) ∧
    (s.cfg.keySize ≤ a → exec (.stk a d) s = .next { s with err := 5 })

/-! ## Rotation -/

/-- The four rotates write `ROT` and nothing else; the register forms rotate the old `ROT`; the fault state ignores them
(40_rotate R122 to R125). -/
def Obligations.RotatesWriteRotOnly : Prop :=
  ∀ (s : State) (v : Byte) (n : Nat),
    (s.err = 0 →
      exec (.rol v n) s = .next { s with rot := rotl8 v n } ∧
      exec (.rolr n) s = .next { s with rot := rotl8 s.rot n } ∧
      exec (.ror v n) s = .next { s with rot := rotr8 v n } ∧
      exec (.rorr n) s = .next { s with rot := rotr8 s.rot n }) ∧
    (s.err ≠ 0 → ∀ i ∈ [Instr.rol v n, .rolr n, .ror v n, .rorr n], exec i s = .next s)

/-- The rotation functions bit by bit and as shifts of numbers (40_rotate R120, R121). -/
def Obligations.RotationsMoveEveryBit : Prop :=
  ∀ (v : Byte) (n : Nat),
    (∀ i < 8, (rotl8 v n).getLsbD ((i + n % 8) % 8) = v.getLsbD i) ∧
    (∀ i < 8, (rotr8 v n).getLsbD i = v.getLsbD ((i + n % 8) % 8)) ∧
    (n % 8 = 0 → rotl8 v n = v ∧ rotr8 v n = v) ∧
    (n % 8 ≠ 0 →
      (rotl8 v n).toNat = ((v.toNat <<< (n % 8)) ||| (v.toNat >>> (8 - n % 8))) % 256 ∧
      (rotr8 v n).toNat = ((v.toNat >>> (n % 8)) ||| (v.toNat <<< (8 - n % 8))) % 256)

/-- The laws of rotation (40_rotate R126 (a) to (g)). -/
def Obligations.RotationLaws : Prop :=
  ∀ (u v : Byte) (m n : Nat),
    (rotl8 v n = rotl8 v (n % 8) ∧ rotr8 v n = rotr8 v (n % 8)) ∧
    rotr8 v n = rotl8 v ((8 - n % 8) % 8) ∧
    (rotr8 (rotl8 v n) n = v ∧ rotl8 (rotr8 v n) n = v) ∧
    (rotl8 (rotl8 v m) n = rotl8 v (m + n) ∧ rotl8 (rotr8 v m) n = rotr8 (rotl8 v n) m ∧
      rotl8 (rotl8 v m) n = rotl8 (rotl8 v n) m ∧ rotr8 (rotr8 v m) n = rotr8 (rotr8 v n) m) ∧
    rotr8 (rotl8 v m) n = rotl8 v ((m % 8 + (8 - n % 8)) % 8) ∧
    (popcount (rotl8 v n) = popcount v ∧ popcount (rotr8 v n) = popcount v ∧
      rotl8 0x00 n = 0x00 ∧ rotr8 0x00 n = 0x00 ∧ rotl8 0xFF n = 0xFF ∧ rotr8 0xFF n = 0xFF) ∧
    (rotl8 (u ^^^ v) n = rotl8 u n ^^^ rotl8 v n ∧ rotr8 (u ^^^ v) n = rotr8 u n ^^^ rotr8 v n)

/-! ## The CRC generator -/

/-- `CRCI`, `CRCB` and `CRCR` write `CRC` and nothing else (41_crc R133 to R135). -/
def Obligations.CrcCommandsWriteCrcOnly : Prop :=
  ∀ (s : State) (d : Byte), s.Normal →
    exec .crci s = .next { s with crc := 0xAAAA } ∧
    exec (.crcb d) s = .next { s with crc := crcByte s.crc d } ∧
    (s.ln8.toNat ≤ s.cfg.bufSize →
      exec .crcr s = .next { s with crc := crcSeq ((List.range s.ln8.toNat).map s.readBuf) })

/-- The CRC functions (41_crc R130 to R132): the bit step as a shift register and as arithmetic, the byte step as eight bit
steps from the most significant bit down, the sequence as a fold from the seed. -/
def Obligations.CrcFunctionsFollowTheBitLoop : Prop :=
  (∀ (reg : Half) (b : Bool),
    (crcBit reg b).getLsbD 0 = false ∧
    (∀ i, 1 ≤ i → i ≤ 15 → (crcBit reg b).getLsbD i =
      if i % 2 = 1 then (reg.getLsbD (i - 1) ^^ (reg.getLsbD 15 ^^ b)) else reg.getLsbD (i - 1)) ∧
    (crcBit reg b).toNat =
      if (reg.getLsbD 15 ^^ b) = true then (reg.toNat * 2 % 65536) ^^^ 0xAAAA else reg.toNat * 2 % 65536) ∧
  (∀ (reg : Half) (d : Byte), crcByte reg d =
    crcBit (crcBit (crcBit (crcBit (crcBit (crcBit (crcBit (crcBit reg (d.getLsbD 7)) (d.getLsbD 6)) (d.getLsbD 5))
      (d.getLsbD 4)) (d.getLsbD 3)) (d.getLsbD 2)) (d.getLsbD 1)) (d.getLsbD 0)) ∧
  crcSeq [] = 0xAAAA ∧
  (∀ (bytes : List Byte) (d : Byte), crcSeq (bytes ++ [d]) = crcByte (crcSeq bytes) d)

/-- The CRC is linear (41_crc R136 (b)): of sequences of one length, the XOR of two CRCs depends only on the bytewise XOR of
the sequences; the bit step is linear in the pair of register and bit. -/
def Obligations.CrcIsLinear : Prop :=
  (∀ (r r' : Half) (b b' : Bool), crcBit (r ^^^ r') (b ^^ b') = crcBit r b ^^^ crcBit r' b') ∧
  (∀ a b c d : List Byte, a.length = b.length → c.length = d.length →
    a.zipWith (· ^^^ ·) b = c.zipWith (· ^^^ ·) d → crcSeq a ^^^ crcSeq b = crcSeq c ^^^ crcSeq d)

/-- `CRCB` and `CRCR` leave `CRC` even, and `CRCS` over the bytes of the body leaves what `CRCR` leaves (41_crc R136 (a),
30_encoding R105). -/
def Obligations.StreamedCrcIsTheCrcOfTheBody : Prop :=
  ∀ s : State, s.Normal → s.LegalLn8 →
    runInstrs (crcs ((List.range s.ln8.toNat).map s.readBuf)) s = exec .crcr s ∧
    (∀ t, exec .crcr s = .next t → t.crc.getLsbD 0 = false) ∧
    (∀ d t, exec (.crcb d) s = .next t → t.crc.getLsbD 0 = false)

/-- What the CRC commands leave alone, and what else changes `CRC` (41_crc R137). -/
def Obligations.OnlyTheCrcUnitWrrAndResetWriteCrc : Prop :=
  (∀ (s t : State) (i : Instr), (i = .crci ∨ (∃ d, i = .crcb d) ∨ i = .crcr) → exec i s = .next t →
    t = { s with crc := t.crc }) ∧
  (∀ (s t : State) (i : Instr), exec i s = .next t → t.crc ≠ s.crc →
    i = .crci ∨ (∃ d, i = .crcb d) ∨ i = .crcr ∨ (∃ v, i = .wrr 0 v) ∨ i = .rst)

/-! ## Parameter derivation and walk initialisation -/

/-- The three functions of a CRC value (42_params R145 to R147), by arithmetic on the number. -/
def Obligations.DerivedParametersFollowTheirFormulas : Prop :=
  ∀ c : Half,
    (ivOf c).toNat = (c.toNat / 4096 % 16 + c.toNat / 256 % 16 + c.toNat / 16 % 16 + c.toNat % 16) % 8 ∧
    (ivOf c).toNat = (c.toNat / 4096 % 8 + c.toNat / 256 % 8 + c.toNat / 16 % 8 + c.toNat % 8) % 8 ∧
    (pwrdOf c).toNat = ((List.range 16).map fun i => (c.getLsbD i).toNat).sum % 2 ∧
    (pwrdOf c = 1 ↔ (List.range 16).foldl (fun p i => p ^^ c.getLsbD i) false = true) ∧
    (xor0Of c).toNat = 0xAA ^^^ (c.toNat / 256) ^^^ (c.toNat % 256)

/-- The direction flag is the parity of the keystream seed (42_params R151 (b)), and the values at the seed (c). -/
def Obligations.DirectionIsTheParityOfTheSeed : Prop :=
  (∀ c : Half, (pwrdOf c).toNat = popcount (xor0Of c) % 2) ∧ ivOf 0xAAAA = 0 ∧ pwrdOf 0xAAAA = 0 ∧ xor0Of 0xAAAA = 0xAA

/-- `EINIT` loads position, direction and keystream byte from `CRC` and changes nothing else; the position is inside the
body (42_params R149). -/
def Obligations.EinitLoadsTheEncodeState : Prop :=
  ∀ s : State, s.Normal →
    ∃ t, exec .einit s = .next t ∧
      t = { s with pos := (ivOf s.crc).zeroExtend 17, dir := pwrdOf s.crc, xOr := xor0Of s.crc } ∧
      (s.LegalLn8 → t.pos.toNat < t.ln8.toNat)

/-- `DINIT` loads direction and keystream byte from its operands, moves the position one place against the encode direction
with wrap, and changes nothing else; the position is inside the body (42_params R150). -/
def Obligations.DinitLoadsTheDecodeState : Prop :=
  ∀ (s : State) (dir : BitVec 1) (x : Byte), s.Normal → s.LegalLn8 →
    let i := (ivOf s.crc).toNat
    let p := if dir = 1 then (if i + 1 = s.ln8.toNat then 0 else i + 1) else (if i = 0 then s.ln8.toNat - 1 else i - 1)
    p < s.ln8.toNat ∧
    ∃ t, exec (.dinit dir x) s = .next t ∧ t = { s with pos := t.pos, dir := dir, xOr := x } ∧ t.pos.toNat = p

/-- `DINIT`'s position is the last position of the encode walk from `iv` in that direction (42_params R152). -/
def Obligations.DinitStartsWhereEncodeEnds : Prop :=
  ∀ (c : Half) (L : Nat) (dir : BitVec 1), L % 8 = 0 → 8 ≤ L →
    dinitPos c L dir = (fun q => encAdv q L dir)^[L - 1] (ivOf c).toNat ∧
    dinitPos c L dir = if dir = 1 then ((ivOf c).toNat + 1) % L else ((ivOf c).toNat + (L - 1)) % L

/-! ## The walk engine -/

/-- Position arithmetic (43_walk R160): range, inverses, and the same as plus or minus one modulo `L`. -/
def Obligations.PositionsWrapInTheBody : Prop :=
  ∀ q L : Nat, L % 8 = 0 → 8 ≤ L → q < L →
    decPos q L = (if q = 0 then L - 1 else q - 1) ∧ incPos q L = (if q = L - 1 then 0 else q + 1) ∧
    decPos q L < L ∧ incPos q L < L ∧ incPos (decPos q L) L = q ∧ decPos (incPos q L) L = q ∧
    decPos q L = (q + (L - 1)) % L ∧ incPos q L = (q + 1) % L ∧
    encAdv q L 1 = decPos q L ∧ encAdv q L 0 = incPos q L ∧ decAdv q L 1 = incPos q L ∧ decAdv q L 0 = decPos q L

/-- The inverse law (43_walk R169): each step function undoes the other, and for a fixed key and keystream byte the encode
step is a bijection on bytes. -/
def Obligations.StepFunctionsAreInverse : Prop :=
  (∀ b k x c x' : Byte, estep b k x = (c, x') → dstep c k x' = (b, x)) ∧
  (∀ c k x' b x : Byte, dstep c k x' = (b, x) → estep b k x = (c, x')) ∧
  (∀ k x : Byte, Function.Bijective fun b => (estep b k x).1)

/-- `ESTEP` (43_walk R162, R163): with `k` the key byte, `x` the keystream byte and `q` the position, it replaces one byte,
chains the keystream, moves the position in the encode direction, and changes nothing else. -/
def Obligations.EstepTransformsOneByte : Prop :=
  ∀ s : State, s.CanStep →
    let q := s.pos.toNat
    let L := s.ln8.toNat
    let k := s.readKey (q % s.klen.toNat)
    let bs := (k ^^^ s.xOr).toNat
    let c := rotr8 (rotl8 (s.readBuf q ^^^ s.xOr ^^^ k) (bs % 16)) (bs / 16)
    ∃ t, exec .estep s = .next t ∧ t = { s with buf := t.buf, xOr := s.xOr ^^^ c, pos := t.pos } ∧
      t.pos.toNat = (if s.dir = 1 then (q + (L - 1)) % L else (q + 1) % L) ∧
      ∀ a, t.readBuf a = if a = q then c else s.readBuf a

/-- `DSTEP` (43_walk R164, R165): it recovers the keystream byte, replaces one byte, moves the position in the decode
direction, and changes nothing else. -/
def Obligations.DstepTransformsOneByte : Prop :=
  ∀ s : State, s.CanStep →
    let q := s.pos.toNat
    let L := s.ln8.toNat
    let k := s.readKey (q % s.klen.toNat)
    let x := s.xOr ^^^ s.readBuf q
    let bs := (k ^^^ x).toNat
    let b := rotr8 (rotl8 (s.readBuf q) (bs / 16)) (bs % 16) ^^^ k ^^^ x
    ∃ t, exec .dstep s = .next t ∧ t = { s with buf := t.buf, xOr := x, pos := t.pos } ∧
      t.pos.toNat = (if s.dir = 1 then (q + 1) % L else (q + (L - 1)) % L) ∧
      ∀ a, t.readBuf a = if a = q then b else s.readBuf a

/-- A step or walk command outside the body records `ERR_POS` and does nothing else; the fault state ignores it (43_walk R163,
R165 to R167). -/
def Obligations.StepsOutsideTheBodyFault : Prop :=
  ∀ s : State, ∀ i ∈ [Instr.estep, .dstep, .ewalk, .dwalk],
    (s.err = 0 → s.ln8.toNat ≤ s.pos.toNat → exec i s = .next { s with err := 6 }) ∧ (s.err ≠ 0 → exec i s = .next s)

/-- `EWALK` equals `LN8` consecutive `ESTEP` commands, ends at its starting position, leaves the bytes outside the body and
changes nothing else but `X_OR` (43_walk R166). -/
def Obligations.EwalkIsLn8Esteps : Prop :=
  ∀ s : State, s.CanStep →
    ∃ t, exec .ewalk s = .next t ∧ runInstrs (List.replicate s.ln8.toNat .estep) s = .next t ∧
      t = { s with buf := t.buf, xOr := t.xOr } ∧ ∀ a, s.ln8.toNat ≤ a → t.readBuf a = s.readBuf a

/-- `DWALK` equals `LN8` consecutive `DSTEP` commands, ends at its starting position, leaves the bytes outside the body and
changes nothing else but `X_OR` (43_walk R167). -/
def Obligations.DwalkIsLn8Dsteps : Prop :=
  ∀ s : State, s.CanStep →
    ∃ t, exec .dwalk s = .next t ∧ runInstrs (List.replicate s.ln8.toNat .dstep) s = .next t ∧
      t = { s with buf := t.buf, xOr := t.xOr } ∧ ∀ a, s.ln8.toNat ≤ a → t.readBuf a = s.readBuf a

/-- Each position once (43_walk R168): the positions of a walk, their closed form, that they are all the body offsets, that
the walk returns to its start, and that they are the positions the step commands go through. -/
def Obligations.WalksVisitEachOffsetOnce : Prop :=
  (∀ (L q : Nat) (dir : BitVec 1), L % 8 = 0 → 8 ≤ L → q < L →
    let enc := fun j => (fun p => encAdv p L dir)^[j] q
    let dec := fun j => (fun p => decAdv p L dir)^[j] q
    (∀ j ≤ L, enc j = if dir = 1 then (q + (L - j)) % L else (q + j) % L) ∧
    (∀ j ≤ L, dec j = if dir = 1 then (q + j) % L else (q + (L - j)) % L) ∧
    ((List.range L).map enc).Perm (List.range L) ∧ ((List.range L).map dec).Perm (List.range L) ∧
    enc L = q ∧ dec L = q) ∧
  (∀ s : State, s.CanStep → ∀ j ≤ s.ln8.toNat,
    (∃ u, runInstrs (List.replicate j .estep) s = .next u ∧
      u.pos.toNat = (fun p => encAdv p s.ln8.toNat s.dir)^[j] s.pos.toNat) ∧
    (∃ u, runInstrs (List.replicate j .dstep) s = .next u ∧
      u.pos.toNat = (fun p => decAdv p s.ln8.toNat s.dir)^[j] s.pos.toNat))

/-- The keystream sum law (43_walk R170): after `EWALK` the keystream byte is the start XOR all bytes of the body after it;
after `DWALK` it is the start XOR all bytes of the body before it, whatever key, direction and position are. -/
def Obligations.KeystreamSumLaw : Prop :=
  (∀ s : State, s.CanStep →
    (∃ t, exec .ewalk s = .next t ∧ t.xOr = ((List.range s.ln8.toNat).map t.readBuf).foldl (· ^^^ ·) s.xOr) ∧
    (∃ t, exec .dwalk s = .next t ∧ t.xOr = ((List.range s.ln8.toNat).map s.readBuf).foldl (· ^^^ ·) s.xOr)) ∧
  (∀ s s' t t' : State, s.CanStep → s'.CanStep → s.xOr = s'.xOr → s.ln8 = s'.ln8 →
    (∀ a < s.ln8.toNat, s.readBuf a = s'.readBuf a) → exec .dwalk s = .next t → exec .dwalk s' = .next t' →
    t.xOr = t'.xOr)

/-- The round trip of the walks (43_walk R171): `EINIT`, `EWALK`, then `DINIT` with the direction and the keystream byte they
leave, then `DWALK`, restores the body and ends with the keystream seed of `CRC`. -/
def Obligations.WalkRoundTrip : Prop :=
  ∀ s : State, s.Normal → s.LegalLn8 → s.LegalKlen →
    ∃ s1 s2 s3 s4, exec .einit s = .next s1 ∧ exec .ewalk s1 = .next s2 ∧
      exec (.dinit s2.dir s2.xOr) s2 = .next s3 ∧ exec .dwalk s3 = .next s4 ∧
      (∀ a, s4.readBuf a = s.readBuf a) ∧ s4.xOr = xor0Of s.crc ∧ s4.crc = s.crc

/-- Bodies that differ only at a position visited late give the same output at all positions visited earlier (43_walk
R172). -/
def Obligations.LateBytesDoNotReachEarlierOutput : Prop :=
  ∀ (s : State) (d : Byte) (j : Nat), s.CanStep → j < s.ln8.toNat →
    let at' := fun i => (fun p => encAdv p s.ln8.toNat s.dir)^[i] s.pos.toNat
    ∃ t t', exec .ewalk s = .next t ∧ exec .ewalk (s.writeBuf (at' j) d) = .next t' ∧
      ∀ i < j, t.readBuf (at' i) = t'.readBuf (at' i)

/-! ## The whole machine -/

/-- Which commands write which register or memory (10_state R22 to R38): every other command leaves it. The last two clauses
are about the model's own fields, the parameters (log 5) and the pending transactions (log 1). -/
def Obligations.OnlyNamedCommandsWriteEachRegister : Prop :=
  ∀ (s t : State) (i : Instr), exec i s = .next t →
    (t.crc ≠ s.crc → i ∈ [Instr.crci, .crcr, .rst] ∨ (∃ d, i = .crcb d) ∨ ∃ v, i = .wrr 0 v) ∧
    (t.xOr ≠ s.xOr → i ∈ [Instr.einit, .estep, .dstep, .ewalk, .dwalk, .rst] ∨ (∃ d x, i = .dinit d x) ∨
      ∃ v, i = .wrr 1 v) ∧
    (t.pos ≠ s.pos → i ∈ [Instr.einit, .estep, .dstep, .rst] ∨ (∃ d x, i = .dinit d x) ∨ ∃ v, i = .wrr 2 v) ∧
    (t.ln8 ≠ s.ln8 → i = .rst ∨ ∃ v, i = .wrr 3 v) ∧
    (t.klen ≠ s.klen → i = .rst ∨ ∃ v, i = .wrr 4 v) ∧
    (t.dir ≠ s.dir → i ∈ [Instr.einit, .rst] ∨ (∃ d x, i = .dinit d x) ∨ ∃ v, i = .wrr 5 v) ∧
    (t.rot ≠ s.rot → (∃ v n, i = .rol v n ∨ i = .ror v n) ∨ (∃ n, i = .rolr n ∨ i = .rorr n) ∨ i = .rst ∨
      ∃ v, i = .wrr 6 v) ∧
    (t.err ≠ s.err → s.err = 0 ∨ i = .rst) ∧
    (t.rsp ≠ s.rsp → (∃ r, i = .rdr r) ∨ (∃ a, i = .ldb a) ∨ i = .rst) ∧
    (t.buf ≠ s.buf → i ∈ [Instr.estep, .dstep, .ewalk, .dwalk] ∨ ∃ a d, i = .stb a d) ∧
    (t.key ≠ s.key → ∃ a d, i = .stk a d) ∧
    t.cfg = s.cfg ∧ t.input = s.input

/-- The host cannot read the key back (10_state R38): what one step leaves in `RSP` is the same whatever `KEY` holds. -/
def Obligations.NoStepReturnsAKeyByte : Prop :=
  ∀ (s : State) (m : Memory),
    (nextOf (step { s with key := m })).map (·.rsp) = (nextOf (step s)).map (·.rsp)

/-! ## The host's procedures -/

/-- The salting pass (45_host_sequences R207): byte `i` is XORed with the low salt byte at even offsets and the high one at odd
offsets, the last two bytes are left, and twice is the identity. -/
def Obligations.SaltingIsSelfInverse : Prop :=
  ∀ (frame : List Byte) (salt : Half),
    saltBytes (saltBytes frame salt) salt = frame ∧ (saltBytes frame salt).length = frame.length ∧
    (∀ i, i + 2 < frame.length → (saltBytes frame salt)[i]? =
      (frame[i]?).map (· ^^^ if i % 2 = 0 then salt.extractLsb' 0 8 else salt.extractLsb' 8 8)) ∧
    (∀ i, frame.length ≤ i + 2 → (saltBytes frame salt)[i]? = frame[i]?)

/-- The codec built on the block (45_host_sequences R214 (a)): a payload that fits the frame format and a password that fits
the block, encoded and then decoded with the same password, come back, for every random draw. -/
def Obligations.DecodeOfEncodedFrameIsThePayload : Prop :=
  ∀ (payload pw : List Byte) (rnd : Randoms) (s u : State), s.Inv → u.Inv → s.Normal → u.Normal →
    1 ≤ payload.length → payload.length ≤ 65535 → 6 ≤ pw.length →
    bodyLength payload.length ≤ s.cfg.bufSize → bodyLength payload.length ≤ u.cfg.bufSize →
    (normalise pw).length ≤ s.cfg.keySize → (normalise pw).length ≤ u.cfg.keySize → (normalise pw).length < 131072 →
    ∃ frame t, encodeFrame payload pw rnd s = .ok (frame, t) ∧ frame.length = bodyLength payload.length + 6 ∧
      ∃ u', decodeFrame frame pw u = .ok (payload, u')
end

