-- ==== Sys2Proof/Laws/State.lean ====
section
/-! SUPPORT. Laws/State.lean: one lemma per field per named update of the state, so that no later proof unfolds a record
update. -/

namespace Sys2Proof.Machine

/-! ### `respond` -/

@[simp] theorem State.respond_crc (s : State) (v : Word) : (s.respond v).crc = s.crc := rfl
@[simp] theorem State.respond_xOr (s : State) (v : Word) : (s.respond v).xOr = s.xOr := rfl
@[simp] theorem State.respond_pos (s : State) (v : Word) : (s.respond v).pos = s.pos := rfl
@[simp] theorem State.respond_ln8 (s : State) (v : Word) : (s.respond v).ln8 = s.ln8 := rfl
@[simp] theorem State.respond_klen (s : State) (v : Word) : (s.respond v).klen = s.klen := rfl
@[simp] theorem State.respond_dir (s : State) (v : Word) : (s.respond v).dir = s.dir := rfl
@[simp] theorem State.respond_rot (s : State) (v : Word) : (s.respond v).rot = s.rot := rfl
@[simp] theorem State.respond_err (s : State) (v : Word) : (s.respond v).err = s.err := rfl
@[simp] theorem State.respond_rsp (s : State) (v : Word) : (s.respond v).rsp = v := rfl
@[simp] theorem State.respond_buf (s : State) (v : Word) : (s.respond v).buf = s.buf := rfl
@[simp] theorem State.respond_key (s : State) (v : Word) : (s.respond v).key = s.key := rfl
@[simp] theorem State.respond_cfg (s : State) (v : Word) : (s.respond v).cfg = s.cfg := rfl
@[simp] theorem State.respond_input (s : State) (v : Word) : (s.respond v).input = s.input := rfl

/-! ### `writeBuf` -/

@[simp] theorem State.writeBuf_crc (s : State) (a : Nat) (d : Byte) : (s.writeBuf a d).crc = s.crc := rfl
@[simp] theorem State.writeBuf_xOr (s : State) (a : Nat) (d : Byte) : (s.writeBuf a d).xOr = s.xOr := rfl
@[simp] theorem State.writeBuf_pos (s : State) (a : Nat) (d : Byte) : (s.writeBuf a d).pos = s.pos := rfl
@[simp] theorem State.writeBuf_ln8 (s : State) (a : Nat) (d : Byte) : (s.writeBuf a d).ln8 = s.ln8 := rfl
@[simp] theorem State.writeBuf_klen (s : State) (a : Nat) (d : Byte) : (s.writeBuf a d).klen = s.klen := rfl
@[simp] theorem State.writeBuf_dir (s : State) (a : Nat) (d : Byte) : (s.writeBuf a d).dir = s.dir := rfl
@[simp] theorem State.writeBuf_rot (s : State) (a : Nat) (d : Byte) : (s.writeBuf a d).rot = s.rot := rfl
@[simp] theorem State.writeBuf_err (s : State) (a : Nat) (d : Byte) : (s.writeBuf a d).err = s.err := rfl
@[simp] theorem State.writeBuf_rsp (s : State) (a : Nat) (d : Byte) : (s.writeBuf a d).rsp = s.rsp := rfl
@[simp] theorem State.writeBuf_buf (s : State) (a : Nat) (d : Byte) : (s.writeBuf a d).buf = s.buf.write a d := rfl
@[simp] theorem State.writeBuf_key (s : State) (a : Nat) (d : Byte) : (s.writeBuf a d).key = s.key := rfl
@[simp] theorem State.writeBuf_cfg (s : State) (a : Nat) (d : Byte) : (s.writeBuf a d).cfg = s.cfg := rfl
@[simp] theorem State.writeBuf_input (s : State) (a : Nat) (d : Byte) : (s.writeBuf a d).input = s.input := rfl

/-! ### `writeKey` -/

@[simp] theorem State.writeKey_crc (s : State) (a : Nat) (d : Byte) : (s.writeKey a d).crc = s.crc := rfl
@[simp] theorem State.writeKey_xOr (s : State) (a : Nat) (d : Byte) : (s.writeKey a d).xOr = s.xOr := rfl
@[simp] theorem State.writeKey_pos (s : State) (a : Nat) (d : Byte) : (s.writeKey a d).pos = s.pos := rfl
@[simp] theorem State.writeKey_ln8 (s : State) (a : Nat) (d : Byte) : (s.writeKey a d).ln8 = s.ln8 := rfl
@[simp] theorem State.writeKey_klen (s : State) (a : Nat) (d : Byte) : (s.writeKey a d).klen = s.klen := rfl
@[simp] theorem State.writeKey_dir (s : State) (a : Nat) (d : Byte) : (s.writeKey a d).dir = s.dir := rfl
@[simp] theorem State.writeKey_rot (s : State) (a : Nat) (d : Byte) : (s.writeKey a d).rot = s.rot := rfl
@[simp] theorem State.writeKey_err (s : State) (a : Nat) (d : Byte) : (s.writeKey a d).err = s.err := rfl
@[simp] theorem State.writeKey_rsp (s : State) (a : Nat) (d : Byte) : (s.writeKey a d).rsp = s.rsp := rfl
@[simp] theorem State.writeKey_buf (s : State) (a : Nat) (d : Byte) : (s.writeKey a d).buf = s.buf := rfl
@[simp] theorem State.writeKey_key (s : State) (a : Nat) (d : Byte) : (s.writeKey a d).key = s.key.write a d := rfl
@[simp] theorem State.writeKey_cfg (s : State) (a : Nat) (d : Byte) : (s.writeKey a d).cfg = s.cfg := rfl
@[simp] theorem State.writeKey_input (s : State) (a : Nat) (d : Byte) : (s.writeKey a d).input = s.input := rfl

/-! ### `setRot` -/

@[simp] theorem State.setRot_crc (s : State) (v : Byte) : (s.setRot v).crc = s.crc := rfl
@[simp] theorem State.setRot_xOr (s : State) (v : Byte) : (s.setRot v).xOr = s.xOr := rfl
@[simp] theorem State.setRot_pos (s : State) (v : Byte) : (s.setRot v).pos = s.pos := rfl
@[simp] theorem State.setRot_ln8 (s : State) (v : Byte) : (s.setRot v).ln8 = s.ln8 := rfl
@[simp] theorem State.setRot_klen (s : State) (v : Byte) : (s.setRot v).klen = s.klen := rfl
@[simp] theorem State.setRot_dir (s : State) (v : Byte) : (s.setRot v).dir = s.dir := rfl
@[simp] theorem State.setRot_rot (s : State) (v : Byte) : (s.setRot v).rot = v := rfl
@[simp] theorem State.setRot_err (s : State) (v : Byte) : (s.setRot v).err = s.err := rfl
@[simp] theorem State.setRot_rsp (s : State) (v : Byte) : (s.setRot v).rsp = s.rsp := rfl
@[simp] theorem State.setRot_buf (s : State) (v : Byte) : (s.setRot v).buf = s.buf := rfl
@[simp] theorem State.setRot_key (s : State) (v : Byte) : (s.setRot v).key = s.key := rfl
@[simp] theorem State.setRot_cfg (s : State) (v : Byte) : (s.setRot v).cfg = s.cfg := rfl
@[simp] theorem State.setRot_input (s : State) (v : Byte) : (s.setRot v).input = s.input := rfl

/-! ### `setCrc` -/

@[simp] theorem State.setCrc_crc (s : State) (c : Half) : (s.setCrc c).crc = c := rfl
@[simp] theorem State.setCrc_xOr (s : State) (c : Half) : (s.setCrc c).xOr = s.xOr := rfl
@[simp] theorem State.setCrc_pos (s : State) (c : Half) : (s.setCrc c).pos = s.pos := rfl
@[simp] theorem State.setCrc_ln8 (s : State) (c : Half) : (s.setCrc c).ln8 = s.ln8 := rfl
@[simp] theorem State.setCrc_klen (s : State) (c : Half) : (s.setCrc c).klen = s.klen := rfl
@[simp] theorem State.setCrc_dir (s : State) (c : Half) : (s.setCrc c).dir = s.dir := rfl
@[simp] theorem State.setCrc_rot (s : State) (c : Half) : (s.setCrc c).rot = s.rot := rfl
@[simp] theorem State.setCrc_err (s : State) (c : Half) : (s.setCrc c).err = s.err := rfl
@[simp] theorem State.setCrc_rsp (s : State) (c : Half) : (s.setCrc c).rsp = s.rsp := rfl
@[simp] theorem State.setCrc_buf (s : State) (c : Half) : (s.setCrc c).buf = s.buf := rfl
@[simp] theorem State.setCrc_key (s : State) (c : Half) : (s.setCrc c).key = s.key := rfl
@[simp] theorem State.setCrc_cfg (s : State) (c : Half) : (s.setCrc c).cfg = s.cfg := rfl
@[simp] theorem State.setCrc_input (s : State) (c : Half) : (s.setCrc c).input = s.input := rfl

/-! ### `setWalk` -/

@[simp] theorem State.setWalk_crc (s : State) (p : Nat) (e : BitVec 1) (x : Byte) : (s.setWalk p e x).crc = s.crc := rfl
@[simp] theorem State.setWalk_xOr (s : State) (p : Nat) (e : BitVec 1) (x : Byte) : (s.setWalk p e x).xOr = x := rfl
@[simp] theorem State.setWalk_pos (s : State) (p : Nat) (e : BitVec 1) (x : Byte) : (s.setWalk p e x).pos = BitVec.ofNat 17 p := rfl
@[simp] theorem State.setWalk_ln8 (s : State) (p : Nat) (e : BitVec 1) (x : Byte) : (s.setWalk p e x).ln8 = s.ln8 := rfl
@[simp] theorem State.setWalk_klen (s : State) (p : Nat) (e : BitVec 1) (x : Byte) : (s.setWalk p e x).klen = s.klen := rfl
@[simp] theorem State.setWalk_dir (s : State) (p : Nat) (e : BitVec 1) (x : Byte) : (s.setWalk p e x).dir = e := rfl
@[simp] theorem State.setWalk_rot (s : State) (p : Nat) (e : BitVec 1) (x : Byte) : (s.setWalk p e x).rot = s.rot := rfl
@[simp] theorem State.setWalk_err (s : State) (p : Nat) (e : BitVec 1) (x : Byte) : (s.setWalk p e x).err = s.err := rfl
@[simp] theorem State.setWalk_rsp (s : State) (p : Nat) (e : BitVec 1) (x : Byte) : (s.setWalk p e x).rsp = s.rsp := rfl
@[simp] theorem State.setWalk_buf (s : State) (p : Nat) (e : BitVec 1) (x : Byte) : (s.setWalk p e x).buf = s.buf := rfl
@[simp] theorem State.setWalk_key (s : State) (p : Nat) (e : BitVec 1) (x : Byte) : (s.setWalk p e x).key = s.key := rfl
@[simp] theorem State.setWalk_cfg (s : State) (p : Nat) (e : BitVec 1) (x : Byte) : (s.setWalk p e x).cfg = s.cfg := rfl
@[simp] theorem State.setWalk_input (s : State) (p : Nat) (e : BitVec 1) (x : Byte) : (s.setWalk p e x).input = s.input := rfl

/-! ### `stepTo` -/

@[simp] theorem State.stepTo_crc (s : State) (r : Byte × Byte) (p : Nat) : (s.stepTo r p).crc = s.crc := rfl
@[simp] theorem State.stepTo_xOr (s : State) (r : Byte × Byte) (p : Nat) : (s.stepTo r p).xOr = r.2 := rfl
@[simp] theorem State.stepTo_pos (s : State) (r : Byte × Byte) (p : Nat) : (s.stepTo r p).pos = BitVec.ofNat 17 p := rfl
@[simp] theorem State.stepTo_ln8 (s : State) (r : Byte × Byte) (p : Nat) : (s.stepTo r p).ln8 = s.ln8 := rfl
@[simp] theorem State.stepTo_klen (s : State) (r : Byte × Byte) (p : Nat) : (s.stepTo r p).klen = s.klen := rfl
@[simp] theorem State.stepTo_dir (s : State) (r : Byte × Byte) (p : Nat) : (s.stepTo r p).dir = s.dir := rfl
@[simp] theorem State.stepTo_rot (s : State) (r : Byte × Byte) (p : Nat) : (s.stepTo r p).rot = s.rot := rfl
@[simp] theorem State.stepTo_err (s : State) (r : Byte × Byte) (p : Nat) : (s.stepTo r p).err = s.err := rfl
@[simp] theorem State.stepTo_rsp (s : State) (r : Byte × Byte) (p : Nat) : (s.stepTo r p).rsp = s.rsp := rfl
@[simp] theorem State.stepTo_buf (s : State) (r : Byte × Byte) (p : Nat) : (s.stepTo r p).buf = s.buf.write s.pos.toNat r.1 := rfl
@[simp] theorem State.stepTo_key (s : State) (r : Byte × Byte) (p : Nat) : (s.stepTo r p).key = s.key := rfl
@[simp] theorem State.stepTo_cfg (s : State) (r : Byte × Byte) (p : Nat) : (s.stepTo r p).cfg = s.cfg := rfl
@[simp] theorem State.stepTo_input (s : State) (r : Byte × Byte) (p : Nat) : (s.stepTo r p).input = s.input := rfl

/-! ### `resetRegisters` -/

@[simp] theorem State.resetRegisters_crc (s : State) : (s.resetRegisters).crc = 0xAAAA := rfl
@[simp] theorem State.resetRegisters_xOr (s : State) : (s.resetRegisters).xOr = 0 := rfl
@[simp] theorem State.resetRegisters_pos (s : State) : (s.resetRegisters).pos = 0 := rfl
@[simp] theorem State.resetRegisters_ln8 (s : State) : (s.resetRegisters).ln8 = 8 := rfl
@[simp] theorem State.resetRegisters_klen (s : State) : (s.resetRegisters).klen = 8 := rfl
@[simp] theorem State.resetRegisters_dir (s : State) : (s.resetRegisters).dir = 0 := rfl
@[simp] theorem State.resetRegisters_rot (s : State) : (s.resetRegisters).rot = 0 := rfl
@[simp] theorem State.resetRegisters_err (s : State) : (s.resetRegisters).err = 0 := rfl
@[simp] theorem State.resetRegisters_rsp (s : State) : (s.resetRegisters).rsp = 0 := rfl
@[simp] theorem State.resetRegisters_buf (s : State) : (s.resetRegisters).buf = s.buf := rfl
@[simp] theorem State.resetRegisters_key (s : State) : (s.resetRegisters).key = s.key := rfl
@[simp] theorem State.resetRegisters_cfg (s : State) : (s.resetRegisters).cfg = s.cfg := rfl
@[simp] theorem State.resetRegisters_input (s : State) : (s.resetRegisters).input = s.input := rfl

/-! ### `present` -/

@[simp] theorem State.present_crc (s : State) (w : Word) : (s.present w).crc = s.crc := rfl
@[simp] theorem State.present_xOr (s : State) (w : Word) : (s.present w).xOr = s.xOr := rfl
@[simp] theorem State.present_pos (s : State) (w : Word) : (s.present w).pos = s.pos := rfl
@[simp] theorem State.present_ln8 (s : State) (w : Word) : (s.present w).ln8 = s.ln8 := rfl
@[simp] theorem State.present_klen (s : State) (w : Word) : (s.present w).klen = s.klen := rfl
@[simp] theorem State.present_dir (s : State) (w : Word) : (s.present w).dir = s.dir := rfl
@[simp] theorem State.present_rot (s : State) (w : Word) : (s.present w).rot = s.rot := rfl
@[simp] theorem State.present_err (s : State) (w : Word) : (s.present w).err = s.err := rfl
@[simp] theorem State.present_rsp (s : State) (w : Word) : (s.present w).rsp = s.rsp := rfl
@[simp] theorem State.present_buf (s : State) (w : Word) : (s.present w).buf = s.buf := rfl
@[simp] theorem State.present_key (s : State) (w : Word) : (s.present w).key = s.key := rfl
@[simp] theorem State.present_cfg (s : State) (w : Word) : (s.present w).cfg = s.cfg := rfl
@[simp] theorem State.present_input (s : State) (w : Word) : (s.present w).input = .command w :: s.input := rfl

/-! ### `raise` -/

@[simp] theorem State.raise_crc (s : State) (c : FaultCode) : (s.raise c).crc = s.crc := by unfold State.raise; split <;> rfl
@[simp] theorem State.raise_xOr (s : State) (c : FaultCode) : (s.raise c).xOr = s.xOr := by unfold State.raise; split <;> rfl
@[simp] theorem State.raise_pos (s : State) (c : FaultCode) : (s.raise c).pos = s.pos := by unfold State.raise; split <;> rfl
@[simp] theorem State.raise_ln8 (s : State) (c : FaultCode) : (s.raise c).ln8 = s.ln8 := by unfold State.raise; split <;> rfl
@[simp] theorem State.raise_klen (s : State) (c : FaultCode) : (s.raise c).klen = s.klen := by unfold State.raise; split <;> rfl
@[simp] theorem State.raise_dir (s : State) (c : FaultCode) : (s.raise c).dir = s.dir := by unfold State.raise; split <;> rfl
@[simp] theorem State.raise_rot (s : State) (c : FaultCode) : (s.raise c).rot = s.rot := by unfold State.raise; split <;> rfl
@[simp] theorem State.raise_rsp (s : State) (c : FaultCode) : (s.raise c).rsp = s.rsp := by unfold State.raise; split <;> rfl
@[simp] theorem State.raise_buf (s : State) (c : FaultCode) : (s.raise c).buf = s.buf := by unfold State.raise; split <;> rfl
@[simp] theorem State.raise_key (s : State) (c : FaultCode) : (s.raise c).key = s.key := by unfold State.raise; split <;> rfl
@[simp] theorem State.raise_cfg (s : State) (c : FaultCode) : (s.raise c).cfg = s.cfg := by unfold State.raise; split <;> rfl
@[simp] theorem State.raise_input (s : State) (c : FaultCode) : (s.raise c).input = s.input := by unfold State.raise; split <;> rfl

@[simp] theorem State.raise_err (s : State) (c : FaultCode) :
    (s.raise c).err = if s.err = 0 then c.code else s.err := by unfold State.raise; split <;> rfl

/-! ### `writeReg` leaves every field alone but the one the register names -/

theorem State.writeReg_crc (s : State) (r : Reg) (v : Nat) :
    (s.writeReg r v).crc = if r = .crc then BitVec.ofNat 16 v else s.crc := by cases r <;> rfl
theorem State.writeReg_xOr (s : State) (r : Reg) (v : Nat) :
    (s.writeReg r v).xOr = if r = .xOr then BitVec.ofNat 8 v else s.xOr := by cases r <;> rfl
theorem State.writeReg_pos (s : State) (r : Reg) (v : Nat) :
    (s.writeReg r v).pos = if r = .pos then BitVec.ofNat 17 v else s.pos := by cases r <;> rfl
theorem State.writeReg_ln8 (s : State) (r : Reg) (v : Nat) :
    (s.writeReg r v).ln8 = if r = .ln8 then BitVec.ofNat 17 v else s.ln8 := by cases r <;> rfl
theorem State.writeReg_klen (s : State) (r : Reg) (v : Nat) :
    (s.writeReg r v).klen = if r = .klen then BitVec.ofNat 17 v else s.klen := by cases r <;> rfl
theorem State.writeReg_dir (s : State) (r : Reg) (v : Nat) :
    (s.writeReg r v).dir = if r = .dir then BitVec.ofNat 1 v else s.dir := by cases r <;> rfl
theorem State.writeReg_rot (s : State) (r : Reg) (v : Nat) :
    (s.writeReg r v).rot = if r = .rot then BitVec.ofNat 8 v else s.rot := by cases r <;> rfl
@[simp] theorem State.writeReg_err (s : State) (r : Reg) (v : Nat) : (s.writeReg r v).err = s.err := by cases r <;> rfl
@[simp] theorem State.writeReg_rsp (s : State) (r : Reg) (v : Nat) : (s.writeReg r v).rsp = s.rsp := by cases r <;> rfl
@[simp] theorem State.writeReg_buf (s : State) (r : Reg) (v : Nat) : (s.writeReg r v).buf = s.buf := by cases r <;> rfl
@[simp] theorem State.writeReg_key (s : State) (r : Reg) (v : Nat) : (s.writeReg r v).key = s.key := by cases r <;> rfl
@[simp] theorem State.writeReg_cfg (s : State) (r : Reg) (v : Nat) : (s.writeReg r v).cfg = s.cfg := by cases r <;> rfl
@[simp] theorem State.writeReg_input (s : State) (r : Reg) (v : Nat) : (s.writeReg r v).input = s.input := by cases r <;> rfl

end Sys2Proof.Machine
end

