-- ==== Sys2Proof/Laws/Memory.lean ====
section
/-! SUPPORT. Laws/Memory.lean: a read after a write, and that a write keeps the canonical form. -/

namespace Sys2Proof.Machine

theorem Memory.cell?_write_same (m : Memory) (a : Nat) (d : Byte) : (m.write a d).cell? a = some d := by
  induction m with
  | nil => simp [Memory.write, Memory.cell?]
  | cons c m ih =>
    obtain ⟨b, e⟩ := c
    simp only [Memory.write]
    split
    · simp [Memory.cell?]
    · split
      · simp [Memory.cell?]
      · next h => simp [Memory.cell?, h, ih]

theorem Memory.cell?_write_other (m : Memory) {a b : Nat} (d : Byte) (h : b ≠ a) :
    (m.write a d).cell? b = m.cell? b := by
  induction m with
  | nil => simp [Memory.write, Memory.cell?, h]
  | cons c m ih =>
    obtain ⟨k, e⟩ := c
    simp only [Memory.write]
    split
    · simp [Memory.cell?, h]
    · split
      · next hk => subst hk; simp [Memory.cell?, h]
      · simp [Memory.cell?, ih]

/-- All that a write does to the cells. -/
theorem Memory.cell?_write (m : Memory) (a b : Nat) (d : Byte) :
    (m.write a d).cell? b = if b = a then some d else m.cell? b := by
  split
  · next h => subst h; exact m.cell?_write_same b d
  · next h => exact m.cell?_write_other d h

theorem Memory.risingFrom_write (size : Nat) (m : Memory) {lo a : Nat} (d : Byte) (hlo : lo ≤ a) (ha : a < size)
    (h : m.risingFrom size lo = true) : (m.write a d).risingFrom size lo = true := by
  induction m generalizing lo with
  | nil => simp [Memory.write, Memory.risingFrom, hlo, ha]
  | cons c m ih =>
    obtain ⟨b, e⟩ := c
    simp only [Memory.risingFrom, Bool.and_eq_true, decide_eq_true_eq] at h
    obtain ⟨⟨h1, h2⟩, h3⟩ := h
    simp only [Memory.write]
    split
    · next hab =>
      simp only [Memory.risingFrom, Bool.and_eq_true, decide_eq_true_eq]
      exact ⟨⟨hlo, ha⟩, ⟨hab, h2⟩, h3⟩
    · split
      · next hab => subst hab; simp [Memory.risingFrom, hlo, ha, h3]
      · next hab hne =>
        simp only [Memory.risingFrom, Bool.and_eq_true, decide_eq_true_eq]
        exact ⟨⟨h1, h2⟩, ih (by omega) h3⟩

/-- A write to an address that exists keeps the canonical form. -/
theorem Memory.wf_write {size : Nat} {m : Memory} {a : Nat} (d : Byte) (ha : a < size) (h : m.wf size = true) :
    (m.write a d).wf size = true :=
  Memory.risingFrom_write size m d (Nat.zero_le a) ha h

theorem reset_memories_wf :
    State.reset.buf.wf State.reset.cfg.bufSize = true ∧ State.reset.key.wf State.reset.cfg.keySize = true :=
  ⟨rfl, rfl⟩

/-- All that `BufWrite` does to the bytes of `BUF`. -/
@[simp] theorem State.readBuf_writeBuf (s : State) (a b : Nat) (d : Byte) :
    (s.writeBuf a d).readBuf b = if b = a then d else s.readBuf b := by
  simp only [State.readBuf, State.writeBuf_buf, Memory.cell?_write]
  split <;> rfl

/-- All that `KeyWrite` does to the bytes of `KEY`. -/
@[simp] theorem State.readKey_writeKey (s : State) (a b : Nat) (d : Byte) :
    (s.writeKey a d).readKey b = if b = a then d else s.readKey b := by
  simp only [State.readKey, State.writeKey_key, Memory.cell?_write]
  split <;> rfl

/-- `BufRead` depends on the memory only. -/
theorem State.readBuf_congr {s t : State} (h : s.buf = t.buf) (a : Nat) : s.readBuf a = t.readBuf a := by
  simp [State.readBuf, h]

/-- `KeyRead` depends on the memory only. -/
theorem State.readKey_congr {s t : State} (h : s.key = t.key) (a : Nat) : s.readKey a = t.readKey a := by
  simp [State.readKey, h]

/-- All that one iteration of an engine does to the bytes of `BUF`. -/
@[simp] theorem State.readBuf_stepTo (s : State) (r : Byte × Byte) (p b : Nat) :
    (s.stepTo r p).readBuf b = if b = s.pos.toNat then r.1 else s.readBuf b := by
  simp only [State.readBuf, State.stepTo_buf, Memory.cell?_write]
  split <;> rfl

end Sys2Proof.Machine
end

