-- ==== Sys2Proof/Laws/Ops.lean ====
section
/-! SUPPORT. Laws/Ops.lean: for each shared operation, once, all that it can do. -/

namespace Sys2Proof.Machine

@[simp] theorem nextOf_next (s : State) : nextOf (.next s) = some s := rfl
@[simp] theorem nextOf_fault (f : Fault) : nextOf (.fault f) = none := rfl
@[simp] theorem nextOf_refused (r : Refusal) : nextOf (.refused r) = none := rfl
@[simp] theorem andThen_next (s : State) (k : State → Host.Outcome State Fault Refusal) : andThen (.next s) k = k s := rfl

theorem nextOf_eq_some {o : Host.Outcome State Fault Refusal} {t : State} : nextOf o = some t ↔ o = .next t := by
  cases o <;> simp [nextOf]

theorem State.unlessFaulted_normal {s : State} (h : s.err = 0) (k : Host.Outcome State Fault Refusal) :
    s.unlessFaulted k = k := if_pos h

theorem State.unlessFaulted_faulted {s : State} (h : s.err ≠ 0) (k : Host.Outcome State Fault Refusal) :
    s.unlessFaulted k = .next s := if_neg h

/-- If a command the fault state ignores answers a next state, it ran in the normal state or changed nothing. -/
theorem State.unlessFaulted_next {s t : State} {k : Host.Outcome State Fault Refusal} (h : s.unlessFaulted k = .next t) :
    (s.err = 0 ∧ k = .next t) ∨ (s.err ≠ 0 ∧ t = s) := by
  unfold State.unlessFaulted at h
  split at h
  · exact .inl ⟨‹_›, h⟩
  · exact .inr ⟨‹_›, by simpa using h.symm⟩

theorem State.raise_normal {s : State} (h : s.err = 0) (c : FaultCode) : s.raise c = { s with err := c.code } := if_pos h

theorem State.raise_faulted {s : State} (h : s.err ≠ 0) (c : FaultCode) : s.raise c = s := if_neg h

theorem FaultCode.code_ne_zero (c : FaultCode) : c.code ≠ 0 := by cases c <;> decide

/-- All that a step or walk command can do. -/
theorem State.engine_next {s k t : State} (h : s.engine k = .next t) :
    (s.err ≠ 0 ∧ t = s) ∨ (s.err = 0 ∧ s.ln8.toNat ≤ s.pos.toNat ∧ t = s.raise .pos) ∨
      (s.err = 0 ∧ s.pos.toNat < s.ln8.toNat ∧ s.ln8.toNat ≤ s.cfg.bufSize ∧ s.klen.toNat ≠ 0 ∧
        s.klen.toNat ≤ s.cfg.keySize ∧ t = k) := by
  rcases State.unlessFaulted_next h with ⟨h0, h⟩ | h
  · right
    split at h
    · exact .inl ⟨h0, ‹_›, by simpa using h.symm⟩
    · split at h
      · simp at h
      · split at h
        · simp at h
        · right
          refine ⟨h0, by omega, by omega, by omega, by omega, by simpa using h.symm⟩
  · exact .inl h

/-- Where a step or walk command can run, it does. -/
theorem State.engine_of_canStep {s : State} (h : s.CanStep) (k : State) : s.engine k = .next k := by
  obtain ⟨h0, h1, h2, h3⟩ := h
  unfold State.LegalLn8 at h2
  unfold State.LegalKlen at h3
  have e0 : s.err = 0 := h0
  unfold State.engine
  rw [State.unlessFaulted_normal e0, if_neg (by omega), if_neg (by omega), if_neg (by omega)]

/-- The body of a walk command, one iteration after another. -/
theorem repeatStep_succ (f : State → State) (n : Nat) (s : State) :
    repeatStep f (n + 1) s = f (repeatStep f n s) := by
  induction n generalizing s with
  | zero => rfl
  | succ n ih => rw [repeatStep, ih, repeatStep]

/-- What holds before a walk and is kept by an iteration holds after it. -/
theorem repeatStep_keeps {f : State → State} {P : State → Prop} (hf : ∀ s, P s → P (f s)) (n : Nat) {s : State} (h : P s) :
    P (repeatStep f n s) := by
  induction n generalizing s with
  | zero => exact h
  | succ n ih => exact ih (hf s h)

end Sys2Proof.Machine
end

