-- ==== Sys2Proof/Laws/Walk.lean ====
section
/-! SUPPORT. Laws/Walk.lean: what one iteration of an engine leaves alone, and the position it goes to. -/

namespace Sys2Proof.Machine

theorem decPos_lt {q L : Nat} (h : q < L) : decPos q L < L := by unfold decPos; split <;> omega

theorem incPos_lt {q L : Nat} (h : q < L) : incPos q L < L := by unfold incPos; split <;> omega

theorem encAdv_lt {q L : Nat} (dir : BitVec 1) (h : q < L) : encAdv q L dir < L := by
  unfold encAdv; split
  · exact decPos_lt h
  · exact incPos_lt h

theorem decAdv_lt {q L : Nat} (dir : BitVec 1) (h : q < L) : decAdv q L dir < L := by
  unfold decAdv; split
  · exact incPos_lt h
  · exact decPos_lt h

theorem incPos_decPos {q L : Nat} (h : q < L) : incPos (decPos q L) L = q := by
  by_cases h0 : q = 0
  · simp only [decPos, if_pos h0, incPos, ↓reduceIte]; omega
  · simp only [decPos, if_neg h0, incPos]; rw [if_neg (by omega)]; omega

theorem decPos_incPos {q L : Nat} (_ : q < L) : decPos (incPos q L) L = q := by
  by_cases h0 : q = L - 1
  · simp only [incPos, if_pos h0, decPos, ↓reduceIte]; omega
  · simp only [incPos, if_neg h0, decPos]; rw [if_neg (by omega)]; omega

/-- The encode and the decode advance undo each other. -/
theorem decAdv_encAdv {q L : Nat} (dir : BitVec 1) (h : q < L) : decAdv (encAdv q L dir) L dir = q := by
  unfold decAdv encAdv; split
  · exact incPos_decPos h
  · exact decPos_incPos h

theorem encAdv_decAdv {q L : Nat} (dir : BitVec 1) (h : q < L) : encAdv (decAdv q L dir) L dir = q := by
  unfold decAdv encAdv; split
  · exact decPos_incPos h
  · exact incPos_decPos h

/-- The registers an engine never writes, the key, the parameters and what the host has still to present. -/
structure SameButWalk (s t : State) : Prop where
  crc : t.crc = s.crc
  ln8 : t.ln8 = s.ln8
  klen : t.klen = s.klen
  dir : t.dir = s.dir
  rot : t.rot = s.rot
  err : t.err = s.err
  rsp : t.rsp = s.rsp
  key : t.key = s.key
  cfg : t.cfg = s.cfg
  input : t.input = s.input

theorem SameButWalk.refl (s : State) : SameButWalk s s := ⟨rfl, rfl, rfl, rfl, rfl, rfl, rfl, rfl, rfl, rfl⟩

theorem SameButWalk.trans {s t u : State} (h : SameButWalk s t) (k : SameButWalk t u) : SameButWalk s u :=
  ⟨k.crc.trans h.crc, k.ln8.trans h.ln8, k.klen.trans h.klen, k.dir.trans h.dir, k.rot.trans h.rot, k.err.trans h.err,
    k.rsp.trans h.rsp, k.key.trans h.key, k.cfg.trans h.cfg, k.input.trans h.input⟩

theorem stepTo_same (s : State) (r : Byte × Byte) (p : Nat) : SameButWalk s (s.stepTo r p) :=
  ⟨rfl, rfl, rfl, rfl, rfl, rfl, rfl, rfl, rfl, rfl⟩

theorem encodeStep_same (s : State) : SameButWalk s (encodeStep s) := stepTo_same s _ _

theorem decodeStep_same (s : State) : SameButWalk s (decodeStep s) := stepTo_same s _ _

theorem repeatStep_same {f : State → State} (hf : ∀ s, SameButWalk s (f s)) (n : Nat) (s : State) :
    SameButWalk s (repeatStep f n s) :=
  repeatStep_keeps (P := SameButWalk s) (fun _ h => h.trans (hf _)) n (SameButWalk.refl s)

/-- The next position of an encode iteration, as a number. -/
theorem encodeStep_pos {s : State} (h : s.pos.toNat < s.ln8.toNat) :
    (encodeStep s).pos.toNat = encAdv s.pos.toNat s.ln8.toNat s.dir := by
  have h1 := encAdv_lt s.dir h
  have h2 := s.ln8.isLt
  simp only [encodeStep, State.stepTo_pos, BitVec.toNat_ofNat]
  exact Nat.mod_eq_of_lt (by omega)

/-- The next position of a decode iteration, as a number. -/
theorem decodeStep_pos {s : State} (h : s.pos.toNat < s.ln8.toNat) :
    (decodeStep s).pos.toNat = decAdv s.pos.toNat s.ln8.toNat s.dir := by
  have h1 := decAdv_lt s.dir h
  have h2 := s.ln8.isLt
  simp only [decodeStep, State.stepTo_pos, BitVec.toNat_ofNat]
  exact Nat.mod_eq_of_lt (by omega)

end Sys2Proof.Machine
end

