-- ==== Sys2Proof/Laws/Exec.lean ====
section
/-! SUPPORT. Laws/Exec.lean: said once, all that a command and a step can do when they answer a next state. -/

namespace Sys2Proof.Machine

/-- The faults a command can record, each with its cause (60_exceptions R231). -/
inductive Faults (s : State) : Instr → FaultCode → Prop
  | noRegister (r v : Nat) : regOfNumber r = none → Faults s (.wrr r v) .reg
  | readOnly (r v : Nat) (g : Reg) : regOfNumber r = some g → regReadOnly g = true → Faults s (.wrr r v) .reg
  | tooWide (r v : Nat) (g : Reg) : regOfNumber r = some g → regReadOnly g = false → regFits g v = false →
      Faults s (.wrr r v) .val
  | notLegal (r v : Nat) (g : Reg) : regOfNumber r = some g → regReadOnly g = false → regFits g v = true →
      regLegal s.cfg g v = false → Faults s (.wrr r v) .val
  | rdr (r : Nat) : regOfNumber r = none → Faults s (.rdr r) .reg
  | stb (a : Nat) (d : Byte) : s.cfg.bufSize ≤ a → Faults s (.stb a d) .adr
  | ldb (a : Nat) : s.cfg.bufSize ≤ a → Faults s (.ldb a) .adr
  | stk (a : Nat) (d : Byte) : s.cfg.keySize ≤ a → Faults s (.stk a d) .adr
  | estep : s.ln8.toNat ≤ s.pos.toNat → Faults s .estep .pos
  | dstep : s.ln8.toNat ≤ s.pos.toNat → Faults s .dstep .pos
  | ewalk : s.ln8.toNat ≤ s.pos.toNat → Faults s .ewalk .pos
  | dwalk : s.ln8.toNat ≤ s.pos.toNat → Faults s .dwalk .pos

/-- The fault state lets a command run: `RST`, `NOP`, and a response that does not fault (60_exceptions R234). -/
def RunsWhenFaulted (s : State) : Instr → Prop
  | .nop => True
  | .rst => True
  | .rdr r => regOfNumber r ≠ none
  | .ldb a => a < s.cfg.bufSize
  | _ => False

/-- The effects a command can have, each with the guards under which it happens. -/
inductive Effect (s : State) : Instr → State → Prop
  | nop : Effect s .nop s
  /-- Ignored in the fault state. -/
  | ignored (i : Instr) : s.err ≠ 0 → ¬ RunsWhenFaulted s i → Effect s i s
  /-- A fault, recorded in the normal state. -/
  | faulted (i : Instr) (c : FaultCode) : s.err = 0 → Faults s i c → Effect s i { s with err := c.code }
  | rst : Effect s .rst s.resetRegisters
  | rdr (r : Nat) (g : Reg) : regOfNumber r = some g → Effect s (.rdr r) (s.respond (s.readReg g))
  | ldb (a : Nat) : a < s.cfg.bufSize → Effect s (.ldb a) (s.respond ((s.readBuf a).zeroExtend 32))
  | wrr (r v : Nat) (g : Reg) : s.err = 0 → regOfNumber r = some g → regReadOnly g = false → regFits g v = true →
      regLegal s.cfg g v = true → Effect s (.wrr r v) (s.writeReg g v)
  | stb (a : Nat) (d : Byte) : s.err = 0 → a < s.cfg.bufSize → Effect s (.stb a d) (s.writeBuf a d)
  | stk (a : Nat) (d : Byte) : s.err = 0 → a < s.cfg.keySize → Effect s (.stk a d) (s.writeKey a d)
  | rol (v : Byte) (n : Nat) : s.err = 0 → Effect s (.rol v n) (s.setRot (rotl8 v n))
  | rolr (n : Nat) : s.err = 0 → Effect s (.rolr n) (s.setRot (rotl8 s.rot n))
  | ror (v : Byte) (n : Nat) : s.err = 0 → Effect s (.ror v n) (s.setRot (rotr8 v n))
  | rorr (n : Nat) : s.err = 0 → Effect s (.rorr n) (s.setRot (rotr8 s.rot n))
  | crci : s.err = 0 → Effect s .crci (s.setCrc crcSeed)
  | crcb (d : Byte) : s.err = 0 → Effect s (.crcb d) (s.setCrc (crcByte s.crc d))
  | crcr : s.err = 0 → s.ln8.toNat ≤ s.cfg.bufSize → Effect s .crcr (s.setCrc (crcSeq s.body))
  | einit : s.err = 0 → Effect s .einit (s.setWalk (ivOf s.crc).toNat (pwrdOf s.crc) (xor0Of s.crc))
  | dinit (dir : BitVec 1) (x : Byte) : s.err = 0 →
      Effect s (.dinit dir x) (s.setWalk (dinitPos s.crc s.ln8.toNat dir) dir x)
  | estep : s.err = 0 → s.pos.toNat < s.ln8.toNat → s.ln8.toNat ≤ s.cfg.bufSize → s.klen.toNat ≠ 0 →
      s.klen.toNat ≤ s.cfg.keySize → Effect s .estep (encodeStep s)
  | dstep : s.err = 0 → s.pos.toNat < s.ln8.toNat → s.ln8.toNat ≤ s.cfg.bufSize → s.klen.toNat ≠ 0 →
      s.klen.toNat ≤ s.cfg.keySize → Effect s .dstep (decodeStep s)
  | ewalk : s.err = 0 → s.pos.toNat < s.ln8.toNat → s.ln8.toNat ≤ s.cfg.bufSize → s.klen.toNat ≠ 0 →
      s.klen.toNat ≤ s.cfg.keySize → Effect s .ewalk (repeatStep encodeStep s.ln8.toNat s)
  | dwalk : s.err = 0 → s.pos.toNat < s.ln8.toNat → s.ln8.toNat ≤ s.cfg.bufSize → s.klen.toNat ≠ 0 →
      s.klen.toNat ≤ s.cfg.keySize → Effect s .dwalk (repeatStep decodeStep s.ln8.toNat s)

/-- The two ways a fault can turn out: its code, or nothing because one is already recorded. -/
theorem Effect.of_raise {s t : State} {i : Instr} {c : FaultCode} (hc : Faults s i c) (hi : s.err ≠ 0 → ¬ RunsWhenFaulted s i)
    (h : (.next (s.raise c) : Host.Outcome State Fault Refusal) = .next t) : Effect s i t := by
  injection h with h
  subst h
  by_cases h0 : s.err = 0
  · rw [State.raise_normal h0]; exact .faulted i c h0 hc
  · rw [State.raise_faulted h0]; exact .ignored i h0 (hi h0)

/-- Everything a command can do. -/
theorem exec_effect {i : Instr} {s t : State} (h : exec i s = .next t) : Effect s i t := by
  have of : ∀ {u : State}, (.next u : Host.Outcome State Fault Refusal) = .next t → Effect s i u → Effect s i t := by
    intro u h k; injection h with h; exact h ▸ k
  have uf : ∀ {k : Host.Outcome State Fault Refusal}, ¬ RunsWhenFaulted s i → s.unlessFaulted k = .next t →
      (s.err = 0 → k = .next t → Effect s i t) → Effect s i t := by
    intro k hr h hk
    rcases State.unlessFaulted_next h with ⟨h0, h⟩ | ⟨h0, h⟩
    · exact hk h0 h
    · subst h; exact .ignored i h0 hr
  have eng : ∀ {k : State}, ¬ RunsWhenFaulted s i → s.engine k = .next t → (s.ln8.toNat ≤ s.pos.toNat → Faults s i .pos) →
      (s.err = 0 → s.pos.toNat < s.ln8.toNat → s.ln8.toNat ≤ s.cfg.bufSize → s.klen.toNat ≠ 0 →
        s.klen.toNat ≤ s.cfg.keySize → Effect s i k) → Effect s i t := by
    intro k hr h hf hk
    rcases State.engine_next h with ⟨h0, h⟩ | ⟨h0, h1, h⟩ | ⟨h0, h1, h2, h3, h4, h⟩
    · subst h; exact .ignored i h0 hr
    · subst h; exact .of_raise (hf h1) (fun _ => hr) rfl
    · subst h; exact hk h0 h1 h2 h3 h4
  have no : ∀ {j : Instr}, RunsWhenFaulted s j = False → ¬ RunsWhenFaulted s j := fun e h => e ▸ h
  cases i <;> simp only [exec] at h
  case nop => exact of h .nop
  case rst => exact of h .rst
  case wrr r v =>
    refine uf (no rfl) h fun h0 h => ?_
    split at h
    · exact .of_raise (.noRegister r v ‹_›) (fun _ => no rfl) h
    · split at h
      · exact .of_raise (.readOnly r v _ ‹_› ‹_›) (fun _ => no rfl) h
      · split at h
        · exact .of_raise (.tooWide r v _ ‹_› ‹_› ‹_›) (fun _ => no rfl) h
        · split at h
          · exact .of_raise (.notLegal r v _ ‹_› ‹_› ‹_› ‹_›) (fun _ => no rfl) h
          · exact of h (.wrr r v _ h0 ‹_› ‹_› ‹_› ‹_›)
  case rdr r =>
    unfold execRdr at h
    split at h
    · next hg => exact .of_raise (.rdr r hg) (fun _ hr => hr hg) h
    · exact of h (.rdr r _ ‹_›)
  case stb a d =>
    refine uf (no rfl) h fun h0 h => ?_
    split at h
    · exact .of_raise (.stb a d ‹_›) (fun _ => no rfl) h
    · exact of h (.stb a d h0 (by omega))
  case ldb a =>
    unfold execLdb at h
    split at h
    · next ha => exact .of_raise (.ldb a ha) (fun _ hr => absurd (show a < s.cfg.bufSize from hr) (by omega)) h
    · exact of h (.ldb a (by omega))
  case stk a d =>
    refine uf (no rfl) h fun h0 h => ?_
    split at h
    · exact .of_raise (.stk a d ‹_›) (fun _ => no rfl) h
    · exact of h (.stk a d h0 (by omega))
  case rol v n => exact uf (no rfl) h fun h0 h => of h (.rol v n h0)
  case rolr n => exact uf (no rfl) h fun h0 h => of h (.rolr n h0)
  case ror v n => exact uf (no rfl) h fun h0 h => of h (.ror v n h0)
  case rorr n => exact uf (no rfl) h fun h0 h => of h (.rorr n h0)
  case crci => exact uf (no rfl) h fun h0 h => of h (.crci h0)
  case crcb d => exact uf (no rfl) h fun h0 h => of h (.crcb d h0)
  case crcr =>
    refine uf (no rfl) h fun h0 h => ?_
    split at h
    · simp at h
    · exact of h (.crcr h0 (by omega))
  case einit => exact uf (no rfl) h fun h0 h => of h (.einit h0)
  case dinit dir x => exact uf (no rfl) h fun h0 h => of h (.dinit dir x h0)
  case estep => exact eng (no rfl) h .estep .estep
  case dstep => exact eng (no rfl) h .dstep .dstep
  case ewalk => exact eng (no rfl) h .ewalk .ewalk
  case dwalk => exact eng (no rfl) h .dwalk .dwalk

/-- Everything a command word can do. -/
theorem execWord_next {w : Word} {s t : State} (h : execWord w s = .next t) :
    (∃ i, decode w = .ok i ∧ exec i s = .next t) ∨ ∃ e, decode w = .error e ∧ t = s.raise (rejectCode e) := by
  unfold execWord at h
  split at h
  · exact .inl ⟨_, ‹_›, h⟩
  · exact .inr ⟨_, ‹_›, by simpa using h.symm⟩

/-- Everything a step can do: stay idle, run the next word, or take the reset input. -/
theorem step_next {s t : State} (h : step s = .next t) :
    (s.input = [] ∧ t = s) ∨
    (∃ w rest, s.input = .command w :: rest ∧ execWord w { s with input := rest } = .next t) ∨
    ∃ rest, s.input = .reset :: rest ∧ t = ({ s with input := rest } : State).resetRegisters := by
  unfold step at h
  cases hx : s.input with
  | nil =>
    simp only [State.nextTransaction, hx] at h
    exact .inl ⟨rfl, by simpa using h.symm⟩
  | cons x rest =>
    simp only [State.nextTransaction, hx] at h
    cases x with
    | command w => exact .inr (.inl ⟨w, rest, rfl, h⟩)
    | reset => exact .inr (.inr ⟨rest, rfl, by simpa [transact] using h.symm⟩)

end Sys2Proof.Machine
end

