-- ==== Sys2Proof/Laws/Codec.lean ====
section
/-! SUPPORT. Laws/Codec.lean: what the host's shared procedures can answer. -/

namespace Sys2Proof.Machine

/-- `RDR ERR` always answers, with the code as it is. -/
theorem ask_err (s : State) : ask (.rdr 10) s = some ({ s with rsp := s.err.zeroExtend 32 }, s.err.zeroExtend 32) := rfl

/-- Commands that end without a fault: the host goes on. -/
theorem issue_of_run {is : List Instr} {s t : State} (onVal : HostError) (h : runInstrs is s = .next t) (h0 : t.err = 0) :
    issue is onVal s = .ok { t with rsp := 0 } := by
  simp [issue, h, ask_err, h0]

/-- All that `issue` does when the host goes on: the commands ran, and no fault is recorded. -/
theorem issue_ok {is : List Instr} {s t : State} {onVal : HostError} (h : issue is onVal s = .ok t) :
    ∃ u, runInstrs is s = .next u ∧ u.err = 0 ∧ t = { u with rsp := 0 } := by
  cases hr : runInstrs is s with
  | next u =>
    by_cases h0 : u.err = 0
    · rw [issue_of_run onVal hr h0] at h
      exact ⟨u, rfl, h0, by simpa using h.symm⟩
    · have hz : u.err.zeroExtend 32 ≠ 0 := fun hz => h0 (by
        have := congrArg BitVec.toNat hz
        have hlt := u.err.isLt
        apply BitVec.eq_of_toNat_eq
        simp at this ⊢
        omega)
      simp only [issue, hr, nextOf_next, Option.bind_some, ask_err] at h
      rw [if_neg hz] at h
      split at h <;> simp at h
  | fault f => simp [issue, hr] at h
  | refused r => simp [issue, hr] at h

/-- Bytes that exist are read back in ascending order, and only `RSP` changes. -/
theorem readBack_eq (n a : Nat) (s : State) (h : a + n ≤ s.cfg.bufSize) :
    ∃ r, readBack n a s = some ({ s with rsp := r }, (List.range n).map fun i => s.readBuf (a + i)) := by
  induction n generalizing a s with
  | zero => exact ⟨s.rsp, rfl⟩
  | succ n ih =>
    have ha : ask (.ldb a) s = some (s.respond ((s.readBuf a).zeroExtend 32), (s.readBuf a).zeroExtend 32) := by
      simp only [ask, exec, execLdb]
      rw [if_neg (by omega)]
      rfl
    obtain ⟨r, hr⟩ := ih (a + 1) (s.respond ((s.readBuf a).zeroExtend 32)) (by simp only [State.respond_cfg]; omega)
    refine ⟨r, ?_⟩
    simp only [readBack, ha, hr, Option.map_some, List.range_succ_eq_map, List.map_cons, List.map_map, Nat.add_zero]
    have e : ((s.readBuf a).zeroExtend 32).truncate 8 = s.readBuf a := by
      apply BitVec.eq_of_toNat_eq
      have := (s.readBuf a).isLt
      simp
    rw [e]
    congr 3
    apply List.map_congr_left
    intro i _
    simp only [Function.comp, Nat.succ_eq_add_one]
    rw [show a + (i + 1) = a + 1 + i by omega]
    rfl

end Sys2Proof.Machine
end

