-- ==== Sys2Proof/Laws/PerInstr.lean ====
section
/-! SUPPORT. Laws/PerInstr.lean: statements for all instructions, one lemma per constructor. -/

namespace Sys2Proof.Laws.EncodeFits

/-- The number a well-formed command is encoded as fits 32 bits and has the command's opcode in bits 31 to 27
(30_encoding R90, R99). -/
def Statement (i : Instr) : Prop :=
  i.wellFormed = true → encodeNat i < 2 ^ 32 ∧ encodeNat i / 2 ^ 27 = i.opcode

theorem nop : Statement .nop := by
  intro _
  simp only [encodeNat, Instr.opcode]
  omega

theorem rst : Statement .rst := by
  intro _
  simp only [encodeNat, Instr.opcode]
  omega

theorem wrr (r v : Nat) : Statement (.wrr r v) := by
  intro h
  simp only [Instr.wellFormed, Bool.and_eq_true, decide_eq_true_eq] at h
  simp only [encodeNat, Instr.opcode]
  omega

theorem rdr (r : Nat) : Statement (.rdr r) := by
  intro h
  simp only [Instr.wellFormed, decide_eq_true_eq] at h
  simp only [encodeNat, Instr.opcode]
  omega

theorem stb (a : Nat) (d : Byte) : Statement (.stb a d) := by
  intro h
  simp only [Instr.wellFormed, decide_eq_true_eq] at h
  have := d.isLt
  simp only [encodeNat, Instr.opcode]
  omega

theorem ldb (a : Nat) : Statement (.ldb a) := by
  intro h
  simp only [Instr.wellFormed, decide_eq_true_eq] at h
  simp only [encodeNat, Instr.opcode]
  omega

theorem stk (a : Nat) (d : Byte) : Statement (.stk a d) := by
  intro h
  simp only [Instr.wellFormed, decide_eq_true_eq] at h
  have := d.isLt
  simp only [encodeNat, Instr.opcode]
  omega

theorem rol (v : Byte) (n : Nat) : Statement (.rol v n) := by
  intro h
  simp only [Instr.wellFormed, decide_eq_true_eq] at h
  have := v.isLt
  simp only [encodeNat, Instr.opcode]
  omega

theorem rolr (n : Nat) : Statement (.rolr n) := by
  intro h
  simp only [Instr.wellFormed, decide_eq_true_eq] at h
  simp only [encodeNat, Instr.opcode]
  omega

theorem ror (v : Byte) (n : Nat) : Statement (.ror v n) := by
  intro h
  simp only [Instr.wellFormed, decide_eq_true_eq] at h
  have := v.isLt
  simp only [encodeNat, Instr.opcode]
  omega

theorem rorr (n : Nat) : Statement (.rorr n) := by
  intro h
  simp only [Instr.wellFormed, decide_eq_true_eq] at h
  simp only [encodeNat, Instr.opcode]
  omega

theorem crci : Statement .crci := by
  intro _
  simp only [encodeNat, Instr.opcode]
  omega

theorem crcb (d : Byte) : Statement (.crcb d) := by
  intro _
  have := d.isLt
  simp only [encodeNat, Instr.opcode]
  omega

theorem crcr : Statement .crcr := by
  intro _
  simp only [encodeNat, Instr.opcode]
  omega

theorem einit : Statement .einit := by
  intro _
  simp only [encodeNat, Instr.opcode]
  omega

theorem dinit (dir : BitVec 1) (x : Byte) : Statement (.dinit dir x) := by
  intro _
  have := dir.isLt
  have := x.isLt
  simp only [encodeNat, Instr.opcode]
  omega

theorem estep : Statement .estep := by
  intro _
  simp only [encodeNat, Instr.opcode]
  omega

theorem dstep : Statement .dstep := by
  intro _
  simp only [encodeNat, Instr.opcode]
  omega

theorem ewalk : Statement .ewalk := by
  intro _
  simp only [encodeNat, Instr.opcode]
  omega

theorem dwalk : Statement .dwalk := by
  intro _
  simp only [encodeNat, Instr.opcode]
  omega

end Sys2Proof.Laws.EncodeFits
end

