-- ==== Sys2Proof/Machine/Text.lean ====
section
/-! DEFINITION. Machine/Text.lean: the host's text wrapper, base64 of the binary form without line wrapping
(45_host_sequences R212). Host software outside the block (00_scope R5); the conversion of a text payload to bytes
(R211) is left out with R5. -/

namespace Sys2Proof.Machine

/-- The standard alphabet, as R212 takes it (PRESUMED by the spec itself; log 14). -/
def base64Alphabet : List Char := "ABCDEFGHIJKLMNOPQRSTUVWXYZabcdefghijklmnopqrstuvwxyz0123456789+/".toList

/-- The character of a 6-bit value. -/
def base64Char (n : Nat) : Char := base64Alphabet.getD n '='

/-- The 6-bit value of a character of the alphabet. -/
def base64Value (c : Char) : Option Nat := base64Alphabet.findIdx? (· == c)

/-- Bytes to text, three bytes to four characters, the last group padded with `=` (R212). -/
def base64Encode : List Byte → List Char
  | [] => []
  | [a] => [base64Char (a.toNat / 4), base64Char (a.toNat % 4 * 16), '=', '=']
  | [a, b] => [base64Char (a.toNat / 4), base64Char (a.toNat % 4 * 16 + b.toNat / 16), base64Char (b.toNat % 16 * 4), '=']
  | a :: b :: c :: rest =>
    base64Char (a.toNat / 4) :: base64Char (a.toNat % 4 * 16 + b.toNat / 16) ::
      base64Char (b.toNat % 16 * 4 + c.toNat / 64) :: base64Char (c.toNat % 64) :: base64Encode rest

/-- One group of four characters without padding. -/
def base64Group (p q r t : Char) : Option (List Byte) := do
  let p ← base64Value p
  let q ← base64Value q
  let r ← base64Value r
  let t ← base64Value t
  return [BitVec.ofNat 8 (p * 4 + q / 16), BitVec.ofNat 8 (q * 16 + r / 4), BitVec.ofNat 8 (r * 64 + t)]

/-- Text to bytes; nothing where the text is not base64. DESIGN CHOICE (log 16): where the last group is padded, the bits
that belong to no byte are dropped, whatever they are ("aB==" decodes as "aA==" does). -/
def base64Decode : List Char → Option (List Byte)
  | [] => some []
  | [p, q, '=', '='] => (base64Group p q 'A' 'A').map (·.take 1)
  | [p, q, r, '='] => (base64Group p q r 'A').map (·.take 2)
  | p :: q :: r :: t :: rest =>
    match base64Group p q r t, base64Decode rest with
    | some l, some m => some (l ++ m)
    | _, _ => none
  | _ => none

/-- `encodeText(payload, password)` (R212). -/
def encodeText (payload pw : List Byte) (rnd : Randoms) (s : State) : Except HostError (List Char × State) :=
  (encodeFrame payload pw rnd s).map fun r => (base64Encode r.1, r.2)

/-- `decodeText(text, password)` (R212). The spec names no error for a text that is not base64 (log 13), which
is found first (DESIGN CHOICE, log 17). -/
def decodeText (text : List Char) (pw : List Byte) (s : State) : Except HostError (List Byte × State) :=
  match base64Decode text with
  | some frame => decodeFrame frame pw s
  | none => .error .refusedByHost

end Sys2Proof.Machine
end

