-- ==== Sys2Proof/Tests/Slice0.lean ====
section
/-! SUPPORT. Tests/Slice0.lean: named tests. Expected values are the spec's own: the encoding tables of 30_encoding, the
examples of files 40 to 44, and the vectors of 95_test_vectors. At the end, for every statement with hypotheses, a
concrete case that meets them. -/

namespace Sys2Proof.Tests

open Sys2Proof.Machine

/-! ### Well-formedness: an ill-formed term for each check -/

theorem test_wf_wrr_register : (Instr.wrr 32 0).wellFormed = false := by decide
theorem test_wf_wrr_value : (Instr.wrr 0 131072).wellFormed = false := by decide
theorem test_wf_rdr_register : (Instr.rdr 32).wellFormed = false := by decide
theorem test_wf_stb_address : (Instr.stb 131072 0).wellFormed = false := by decide
theorem test_wf_ldb_address : (Instr.ldb 131072).wellFormed = false := by decide
theorem test_wf_stk_address : (Instr.stk 131072 0).wellFormed = false := by decide
theorem test_wf_rol_amount : (Instr.rol 0 256).wellFormed = false := by decide
theorem test_wf_rolr_amount : (Instr.rolr 256).wellFormed = false := by decide
theorem test_wf_ror_amount : (Instr.ror 0 256).wellFormed = false := by decide
theorem test_wf_rorr_amount : (Instr.rorr 256).wellFormed = false := by decide

/-! ### Decoding: words written out field by field from R91 to R98 -/

/-- Format N: opcode, 27 zero bits. -/
theorem test_decode_format_n :
    decode 0b00000_000000000000000000000000000 = .ok .nop ∧ decode 0b00001_000000000000000000000000000 = .ok .rst ∧
    decode 0b01010_000000000000000000000000000 = .ok .crci ∧ decode 0b01100_000000000000000000000000000 = .ok .crcr ∧
    decode 0b10000_000000000000000000000000000 = .ok .einit ∧ decode 0b10010_000000000000000000000000000 = .ok .estep ∧
    decode 0b10011_000000000000000000000000000 = .ok .dstep ∧ decode 0b10100_000000000000000000000000000 = .ok .ewalk ∧
    decode 0b10101_000000000000000000000000000 = .ok .dwalk := ⟨rfl, rfl, rfl, rfl, rfl, rfl, rfl, rfl, rfl⟩

/-- Formats I and D: `CRCB 0x69`; `DINIT 1, 0xB9`. -/
theorem test_decode_formats_i_d :
    decode 0b01011_0000000000000000000_01101001 = .ok (.crcb 0x69) ∧
    decode 0b10001_000000000000000000_1_10111001 = .ok (.dinit 1 0xB9) := ⟨rfl, rfl⟩

/-- Format R: `WRR 31, 131070`; `WRR 3, 16`; `RDR 9`. -/
theorem test_decode_format_r :
    decode 0b00010_11111_00000_11111111111111110 = .ok (.wrr 31 131070) ∧
    decode 0b00010_00011_00000_00000000000010000 = .ok (.wrr 3 16) ∧
    decode 0b00011_01001_00000_00000000000000000 = .ok (.rdr 9) := ⟨rfl, rfl, rfl⟩

/-- Format M: `STB 10, 0x33`; `LDB 2`; `STK 65536, 0x73`. -/
theorem test_decode_format_m :
    decode 0b00100_00_00000000000001010_00110011 = .ok (.stb 10 0x33) ∧
    decode 0b00101_00_00000000000000010_00000000 = .ok (.ldb 2) ∧
    decode 0b00110_00_10000000000000000_01110011 = .ok (.stk 65536 0x73) := ⟨rfl, rfl, rfl⟩

/-- Format T: `ROL 0x81, 1`; `ROLR 7`; `ROR 0xB4, 12`; `RORR 4`. -/
theorem test_decode_format_t :
    decode 0b01000_0000000000_0_10000001_00000001 = .ok (.rol 0x81 1) ∧
    decode 0b01000_0000000000_1_00000000_00000111 = .ok (.rolr 7) ∧
    decode 0b01001_0000000000_0_10110100_00001100 = .ok (.ror 0xB4 12) ∧
    decode 0b01001_0000000000_1_00000000_00000100 = .ok (.rorr 4) := ⟨rfl, rfl, rfl, rfl⟩

/-- R100: the undefined opcodes at the ends of their ranges. -/
theorem test_decode_undefined :
    decode 0x38000000 = .error .undefinedOpcode ∧ decode 0x68000000 = .error .undefinedOpcode ∧
    decode 0x7FFFFFFF = .error .undefinedOpcode ∧ decode 0xB0000000 = .error .undefinedOpcode ∧
    decode 0xFFFFFFFF = .error .undefinedOpcode := ⟨rfl, rfl, rfl, rfl, rfl⟩

/-- R101: one reserved bit set, in each format and each must-be-zero operand. -/
theorem test_decode_reserved :
    decode 0x00000001 = .error .reservedField ∧ decode 0x58000100 = .error .reservedField ∧
    decode 0x10020000 = .error .reservedField ∧ decode 0x18000001 = .error .reservedField ∧
    decode 0x22000000 = .error .reservedField ∧ decode 0x28000001 = .error .reservedField ∧
    decode 0x40020000 = .error .reservedField ∧ decode 0x40010100 = .error .reservedField ∧
    decode 0x88000200 = .error .reservedField := ⟨rfl, rfl, rfl, rfl, rfl, rfl, rfl, rfl, rfl⟩

/-- R99: the three words the spec builds. -/
theorem test_encode_examples :
    encode (.stb 0x0A 0x33) = 0x20000A33 ∧ encode (.wrr 3 16) = 0x10C00010 ∧ encode (.dinit 1 0xB9) = 0x880001B9 :=
  ⟨rfl, rfl, rfl⟩

/-- The host's two readings of a table row. -/
theorem test_table_word :
    decodeTableWord 32 0x40008101 = some (.rol 0x81 1) ∧
    (nextOf (step (State.reset.withFetchWord 32 0x40008101))).map (·.rot) = some 0x03 := by decide

/-! ### One command each, on small states -/

/-- Consecutive bytes from address 0. -/
def bytesAt0 (l : List Byte) : Memory := l.zipIdx.map fun p => (p.2, p.1)

/-- "secretss" (95_test_vectors 1.2). -/
def keyBytes : List Byte := [0x73, 0x65, 0x63, 0x72, 0x65, 0x74, 0x73, 0x73]

/-- The plain body of R135's example. -/
def plain : List Byte :=
  [0x02, 0x00, 0x68, 0x69, 0x11, 0x22, 0x33, 0x44, 0x11, 0x22, 0x33, 0x44, 0x11, 0x22, 0x33, 0x44]

/-- The scrambled body of R166's example. -/
def scrambled : List Byte :=
  [0x33, 0xC7, 0x91, 0x74, 0x30, 0x2C, 0x77, 0x55, 0x6E, 0x5C, 0xAA, 0x3F, 0x21, 0x86, 0x82, 0x6E]

/-- The state of the examples: 16 body bytes, the key, `CRC = 0x1ACA`, and a walk position, direction and keystream byte. -/
def example16 (body : List Byte) (pos : Addr) (x : Byte) : State :=
  { State.reset with
    crc := 0x1ACA, pos := pos, dir := 1, xOr := x, ln8 := 16, buf := bytesAt0 body, key := bytesAt0 keyBytes }

/-- The fault state of R181's example. -/
def faulted : State := { State.reset with err := 4, ln8 := 16, crc := 0x1ACA }

/-- The state after one word. -/
def after (w : Word) (s : State) : Option State := nextOf (execWord w s)

theorem test_nop : after 0x00000000 (example16 plain 1 0x7A) = some (example16 plain 1 0x7A) := by decide
theorem test_nop_in_the_fault_state : after 0x00000000 faulted = some faulted := by decide

theorem test_rst : (after 0x08000000 faulted).map (fun s => (s.err, s.ln8, s.crc)) = some (0, 8, 0xAAAA) := by decide
theorem test_rst_keeps_memories :
    (after 0x08000000 (example16 plain 1 0x7A)).map (fun s => (s.buf, s.key)) = some (bytesAt0 plain, bytesAt0 keyBytes) := by
  decide

theorem test_wrr : (after 0x10C00010 State.reset).map (·.ln8) = some 16 := by decide
theorem test_wrr_faults :
    after 0x10C0000C State.reset = some { State.reset with err := 4 } ∧
    after 0x10400100 State.reset = some { State.reset with err := 4 } ∧
    after 0x12C00000 State.reset = some { State.reset with err := 3 } := by decide

theorem test_rdr : (after 0x18000000 { State.reset with crc := 0x0FD4 }).map (·.rsp) = some 0x00000FD4 := by decide
theorem test_rdr_view : (after 0x1A400000 { State.reset with crc := 0x0FD4 }).map (·.rsp) = some 0x00000071 := by decide

theorem test_stb : (after 0x20000268 State.reset).map (·.buf) = some [(2, 0x68)] := by decide
theorem test_stb_faults : after 0x21001001 State.reset = some { State.reset with err := 5 } := by decide

theorem test_ldb : (after 0x28000200 { State.reset with buf := [(2, 0x68)] }).map (·.rsp) = some 0x00000068 := by decide

theorem test_stk : (after 0x30000073 State.reset).map (·.key) = some [(0, 0x73)] := by decide
theorem test_stk_faults : after 0x30010000 State.reset = some { State.reset with err := 5 } := by decide

theorem test_rol : (after 0x40008101 State.reset).map (·.rot) = some 0x03 := by decide
theorem test_rolr : (after 0x40010007 { State.reset with rot := 0x03 }).map (·.rot) = some 0x81 := by decide
theorem test_ror : (after 0x4800B40C State.reset).map (·.rot) = some 0x4B := by decide
theorem test_rorr : (after 0x48010004 { State.reset with rot := 0x4B }).map (·.rot) = some 0xB4 := by decide

theorem test_crci : (after 0x50000000 (example16 plain 1 0x7A)).map (·.crc) = some 0xAAAA := by decide
theorem test_crcb : (after 0x58000068 State.reset).map (·.crc) = some 0x00F0 := by decide
theorem test_crcb_next : (after 0x58000069 { State.reset with crc := 0x00F0 }).map (·.crc) = some 0x0FD4 := by decide
theorem test_crcr : (after 0x60000000 { example16 plain 1 0x7A with crc := 0 }).map (·.crc) = some 0x1ACA := by decide +kernel

theorem test_einit :
    (after 0x80000000 { State.reset with crc := 0x1ACA }).map (fun s => (s.pos, s.dir, s.xOr)) = some (1, 1, 0x7A) := by decide
theorem test_dinit :
    (after 0x880001B9 (example16 plain 0 0)).map (fun s => (s.pos, s.dir, s.xOr)) = some (2, 1, 0xB9) := by decide
/-- R150's corner: `iv = 0` with direction 0 wraps to the end of the body. -/
theorem test_dinit_wraps : (after 0x88000000 { State.reset with ln8 := 16 }).map (·.pos) = some 15 := by decide

theorem test_estep :
    (after 0x90000000 (example16 plain 1 0x7A)).map (fun s => (s.buf.cell? 1, s.xOr, s.pos)) =
      some (some 0xC7, 0xBD, 0) := by decide
theorem test_dstep :
    (after 0x98000000 (example16 scrambled 1 0xBD)).map (fun s => (s.buf.cell? 1, s.xOr, s.pos)) =
      some (some 0x00, 0x7A, 2) := by decide
theorem test_ewalk :
    (after 0xA0000000 (example16 plain 1 0x7A)).map (fun s => (s.buf, s.xOr, s.pos)) =
      some (bytesAt0 scrambled, 0xB9, 1) := by decide +kernel
theorem test_dwalk :
    (after 0xA8000000 (example16 scrambled 2 0xB9)).map (fun s => (s.buf, s.xOr, s.pos)) =
      some (bytesAt0 plain, 0x7A, 2) := by decide +kernel

/-- R203, R201: body lengths and normalised passwords of 95_test_vectors 1.2 and 1.3. -/
theorem test_host_lengths :
    [1, 6, 7, 14, 15, 22, 65535].map bodyLength = [16, 16, 24, 24, 32, 32, 65552] ∧
    normalise [0x73, 0x65, 0x63, 0x72, 0x65, 0x74] = keyBytes := by decide

/-- R212: every remainder modulo 3, there and back. -/
theorem test_base64 :
    base64Encode [0x68, 0x69] = "aGk=".toList ∧ base64Encode [0x68] = "aA==".toList ∧
    base64Decode "aGk=".toList = some [0x68, 0x69] ∧ base64Decode (base64Encode keyBytes) = some keyBytes ∧
    base64Decode (base64Encode (keyBytes.take 7)) = some (keyBytes.take 7) ∧ base64Decode "a".toList = none := by
  decide +kernel

/-- The error of a refused decode. -/
def decodeError (frame pw : List Byte) (s : State) : Option HostError :=
  match decodeFrame frame pw s with
  | .error e => some e
  | .ok _ => none

/-- R208 and 90_conflicts C6: a short input is refused before the password is looked at. -/
theorem test_decode_short_input_first :
    decodeError [1, 2, 3, 4, 5] [] State.reset = some .malformedFrame ∧
    decodeError [1] keyBytes State.reset = some .malformedFrame ∧
    decodeError [1, 2, 3, 4, 5, 6] [] State.reset = some .weakKey ∧ decodeError [] keyBytes State.reset = some .emptyInput := by
  decide +kernel

/-- R208 and R210: an illegal body length (0, 9) is `MalformedFrame`, a block that already holds `ERR_VAL` is not. -/
theorem test_decode_malformed_is_the_length_only :
    decodeError (keyBytes.take 6) keyBytes State.reset = some .malformedFrame ∧
    decodeError (plain.take 15) keyBytes State.reset = some .malformedFrame ∧
    decodeError (plain ++ plain.take 6) keyBytes faulted = some .refusedByHost := by
  decide +kernel

/-! ### Witnesses: for each statement with hypotheses, concrete values that meet them -/

theorem test_witness_DecodeOfEncodeIsTheCommand :
    (Instr.wrr 31 131071).wellFormed = true ∧ (Instr.rdr 31).wellFormed = true ∧ (Instr.stb 131071 0xFF).wellFormed = true ∧
    (Instr.ldb 131071).wellFormed = true ∧ (Instr.stk 131071 0xFF).wellFormed = true ∧ (Instr.rol 0xFF 255).wellFormed = true ∧
    (Instr.rolr 255).wellFormed = true ∧ (Instr.ror 0xFF 255).wellFormed = true ∧ (Instr.rorr 255).wellFormed = true ∧
    (Instr.crcb 0xFF).wellFormed = true ∧ (Instr.dinit 1 0xFF).wellFormed = true ∧ Instr.dwalk.wellFormed = true := by decide

theorem test_witness_EncodeOfDecodeIsTheWord :
    decode 0x17C1FFFF = .ok (.wrr 31 131071) ∧ decode 0x4000FFFF = .ok (.rol 0xFF 255) := ⟨rfl, rfl⟩

theorem test_witness_OpcodeMapSelectsTheCommand :
    State.reset.Normal ∧ (∀ row ∈ opcodeMap, (0x38000000 : Word) &&& row.mask ≠ row.pattern) ∧
    (∀ row ∈ opcodeMap, (0x00000001 : Word) &&& row.mask ≠ row.pattern) := by decide

theorem test_witness_UndefinedOpcodesFault :
    State.reset.Normal ∧ ((0x38000000 : Word).extractLsb' 27 5).toNat = 0x07 ∧
    ((0x7FFFFFFF : Word).extractLsb' 27 5).toNat = 0x0F ∧ ((0xB0000000 : Word).extractLsb' 27 5).toNat = 0x16 ∧
    ((0xFFFFFFFF : Word).extractLsb' 27 5).toNat = 0x1F := by decide

/-- One word for each of R101's nine cases, in the statement's order. -/
theorem test_witness_ReservedFieldsFault :
    State.reset.Normal ∧ (0xAC000000 : Word).extractLsb' 0 27 ≠ 0 ∧ (0x58000100 : Word).extractLsb' 8 19 ≠ 0 ∧
    (0x10020000 : Word).extractLsb' 17 5 ≠ 0 ∧ (0x18010000 : Word).extractLsb' 0 17 ≠ 0 ∧
    (0x34000000 : Word).extractLsb' 25 2 ≠ 0 ∧ (0x28000080 : Word).extractLsb' 0 8 ≠ 0 ∧
    (0x4C000000 : Word).extractLsb' 17 10 ≠ 0 ∧
    ((0x48010100 : Word).extractLsb' 16 1 = 1 ∧ (0x48010100 : Word).extractLsb' 8 8 ≠ 0) ∧
    (0x88000200 : Word).extractLsb' 9 18 ≠ 0 := by decide

/-- A state with one transaction pending. -/
def pending (x : Transaction) (s : State) : State := { s with input := [x] }

theorem test_witness_StepRunsTheDecodedCommand :
    (pending (.command 0x40008101) State.reset).input = .command 0x40008101 :: [] ∧
    decode 0x40008101 = .ok (.rol 0x81 1) ∧ (Instr.rol 0x81 1).wellFormed = true := ⟨rfl, rfl, rfl⟩

/-- The three clauses: an undefined opcode, a reserved field, and either in the fault state. -/
theorem test_witness_StepOnARejectedWordRecordsTheFault :
    ((pending (.command 0xFFFFFFFF) State.reset).err = 0 ∧ decode 0xFFFFFFFF = .error .undefinedOpcode) ∧
    ((pending (.command 1) State.reset).err = 0 ∧ decode 1 = .error .reservedField) ∧
    ((pending (.command 1) faulted).err ≠ 0 ∧ ∀ i, decode 1 ≠ .ok i) :=
  ⟨⟨rfl, rfl⟩, ⟨rfl, rfl⟩, by decide, fun _ h => Except.noConfusion rfl rfl (heq_of_eq h)⟩

theorem test_witness_StepWithNothingPendingIsIdle : State.reset.input = [] := rfl

theorem test_witness_ResetInputActsAsRst : (pending .reset faulted).input = .reset :: [] := rfl

theorem test_witness_StepKeepsTheInvariant :
    (pending (.command 0xA0000000) (example16 plain 1 0x7A)).Inv ∧
    ∃ t, step (pending (.command 0xA0000000) (example16 plain 1 0x7A)) = .next t := ⟨by decide, _, rfl⟩

theorem test_witness_EveryRunCompletes : (pending (.command 0xA0000000) (example16 plain 1 0x7A)).Inv := by decide

/-- At both ends of the body, under a step command. -/
theorem test_witness_PosStaysInTheBody :
    (pending (.command 0x90000000) (example16 plain 0 0x7A)).Inv ∧ (0 : Addr).toNat < (16 : Addr).toNat ∧
    (pending (.command 0x90000000) (example16 plain 15 0x7A)).Inv ∧ (15 : Addr).toNat < (16 : Addr).toNat ∧
    (∃ t, step (pending (.command 0x90000000) (example16 plain 15 0x7A)) = .next t) ∧
    ∀ v, decode 0x90000000 ≠ .ok (.wrr 2 v) ∧ decode 0x90000000 ≠ .ok (.wrr 3 v) :=
  ⟨by decide, by decide, by decide, by decide, ⟨_, rfl⟩, fun _ => by
    rw [show decode 0x90000000 = .ok .estep from rfl]; simp⟩

/-- Under a `WRR CRC` of an even value. -/
theorem test_witness_CrcStaysEven :
    State.reset.crc.getLsbD 0 = false ∧ decode 0x1000FFFE = .ok (.wrr 0 65534) ∧ 65534 % 2 = 0 ∧
    ∃ t, step (pending (.command 0x1000FFFE) State.reset) = .next t := ⟨by decide, rfl, rfl, _, rfl⟩

theorem test_witness_FaultsArePrecise :
    State.reset.err = 0 ∧ ∃ t, step (pending (.command 0xFFFFFFFF) State.reset) = .next t ∧ t.err ≠ 0 :=
  ⟨rfl, _, rfl, by decide⟩

/-- Each clause, the `RDR` and `LDB` ones on both sides of their bounds. -/
theorem test_witness_FaultStateIgnoresOtherWords :
    faulted.err ≠ 0 ∧ decode 0x08000000 = .ok .rst ∧ decode 0x00000000 = .ok .nop ∧ decode 0x1A800000 = .ok (.rdr 10) ∧
    (decode 0x29000F00 = .ok (.ldb 65551) ∧ 65551 < faulted.cfg.bufSize) ∧ decode 0x1AC00000 = .ok (.rdr 11) ∧
    (decode 0x29001000 = .ok (.ldb 65552) ∧ faulted.cfg.bufSize ≤ 65552) ∧ decode 0xA8000000 = .ok .dwalk :=
  ⟨by decide, rfl, rfl, rfl, ⟨rfl, by decide⟩, rfl, ⟨rfl, by decide⟩, rfl⟩

theorem test_witness_FirstFaultSticksUntilReset :
    faulted.err ≠ 0 ∧ (∃ t, step (pending (.command 0xFFFFFFFF) faulted) = .next t) ∧
    ∃ t, step (pending .reset faulted) = .next t := ⟨by decide, ⟨_, rfl⟩, _, rfl⟩

/-- A word for no fault and for each of the six codes. -/
theorem test_witness_FaultCodesHaveTheirCauses :
    State.reset.err = 0 ∧ (after 0x00000000 State.reset).map (·.err) = some 0 ∧
    (after 0xB0000000 State.reset).map (·.err) = some 1 ∧ (after 0x00000001 State.reset).map (·.err) = some 2 ∧
    (after 0x11C00000 State.reset).map (·.err) = some 3 ∧ (after 0x11400002 State.reset).map (·.err) = some 4 ∧
    (after 0x29001000 State.reset).map (·.err) = some 5 ∧
    (after 0x90000000 { State.reset with pos := 8 }).map (·.err) = some 6 := by decide

/-- The largest value of each register. -/
theorem test_witness_WrrWritesTheRegister :
    State.reset.Normal ∧ 65535 < 2 ^ 16 ∧ 255 < 2 ^ 8 ∧ 131071 < 2 ^ 17 ∧
    (8 < 2 ^ 17 ∧ 8 % 8 = 0 ∧ 8 ≤ 8 ∧ 8 ≤ State.reset.cfg.bufSize) ∧
    (65552 < 2 ^ 17 ∧ 65552 % 8 = 0 ∧ 8 ≤ 65552 ∧ 65552 ≤ State.reset.cfg.bufSize) ∧
    (256 < 2 ^ 17 ∧ 256 % 8 = 0 ∧ 8 ≤ 256 ∧ 256 ≤ State.reset.cfg.keySize) ∧ 1 < 2 := by decide

/-- The first value each register refuses; a length that is no multiple of 8, one below 8, one above the memory. -/
theorem test_witness_WrrFaultsInOrder :
    State.reset.err = 0 ∧ 7 ≤ 7 ∧ 7 ≤ 31 ∧ 2 ^ 16 ≤ 65536 ∧ 2 ^ 8 ≤ 256 ∧ 2 ^ 1 ≤ 2 ∧ 2 ^ 17 ≤ 131072 ∧
    12 % 8 ≠ 0 ∧ 0 < 8 ∧ State.reset.cfg.bufSize < 65560 ∧ State.reset.cfg.keySize < 264 ∧ faulted.err ≠ 0 := by decide

theorem test_witness_RdrReadsTheRegister : State.reset.err = 0 ∧ faulted.err ≠ 0 ∧ 10 < 11 ∧ 10 < 31 := by decide

theorem test_witness_ViewsFollowCrc : State.reset.err = 0 ∧ 7 ∈ [7, 8, 9] ∧ 9 ∈ [7, 8, 9] := by decide

theorem test_witness_StoresWriteOneByte :
    State.reset.Normal ∧ 0 < State.reset.cfg.bufSize ∧ 65551 < State.reset.cfg.bufSize ∧ 255 < State.reset.cfg.keySize := by
  decide

theorem test_witness_LdbLoadsOneByte : 0 < State.reset.cfg.bufSize ∧ 65551 < faulted.cfg.bufSize := by decide

theorem test_witness_AddressesBeyondAMemoryFault :
    State.reset.Normal ∧ State.reset.cfg.bufSize ≤ 65552 ∧ State.reset.cfg.keySize ≤ 256 := by decide

theorem test_witness_RotatesWriteRotOnly :
    State.reset.err = 0 ∧ faulted.err ≠ 0 ∧ Instr.rorr 255 ∈ [Instr.rol 0 255, .rolr 255, .ror 0 255, .rorr 255] := by decide

theorem test_witness_RotationsMoveEveryBit : 0 < 8 ∧ 7 < 8 ∧ 0 % 8 = 0 ∧ 248 % 8 = 0 ∧ 1 % 8 ≠ 0 ∧ 255 % 8 ≠ 0 := by decide

theorem test_witness_CrcCommandsWriteCrcOnly :
    (example16 plain 1 0x7A).Normal ∧ (example16 plain 1 0x7A).ln8.toNat ≤ (example16 plain 1 0x7A).cfg.bufSize := by decide

theorem test_witness_CrcFunctionsFollowTheBitLoop : (1 ≤ 1 ∧ 1 ≤ 15) ∧ (1 ≤ 15 ∧ 15 ≤ 15) := by decide

theorem test_witness_CrcIsLinear :
    ([0x68, 0x69] : List Byte).length = ([0x01, 0x02] : List Byte).length ∧
    ([0x69, 0x6B] : List Byte).length = ([0x00, 0x00] : List Byte).length ∧
    ([0x68, 0x69] : List Byte).zipWith (· ^^^ ·) [0x01, 0x02] = ([0x69, 0x6B] : List Byte).zipWith (· ^^^ ·) [0x00, 0x00] := by
  decide

theorem test_witness_StreamedCrcIsTheCrcOfTheBody :
    (example16 plain 1 0x7A).Normal ∧ (example16 plain 1 0x7A).LegalLn8 ∧
    (∃ t, exec .crcr (example16 plain 1 0x7A) = .next t) ∧ ∃ t, exec (.crcb 0x68) (example16 plain 1 0x7A) = .next t :=
  ⟨by decide, by decide, ⟨_, rfl⟩, _, rfl⟩

theorem test_witness_OnlyTheCrcUnitWrrAndResetWriteCrc :
    (∃ t, exec .crci (example16 plain 1 0x7A) = .next t ∧ t.crc ≠ (example16 plain 1 0x7A).crc) ∧
    ∃ t, exec (.wrr 0 1) State.reset = .next t ∧ t.crc ≠ State.reset.crc := ⟨⟨_, rfl, by decide⟩, _, rfl, by decide⟩

theorem test_witness_EinitLoadsTheEncodeState :
    (example16 plain 1 0x7A).Normal ∧ (example16 plain 1 0x7A).LegalLn8 := by decide

/-- Both wraps: `iv = 0` backwards, and `iv = 7` forwards in a body of 8 bytes (R150). -/
theorem test_witness_DinitLoadsTheDecodeState :
    (State.reset.Normal ∧ State.reset.LegalLn8 ∧ ivOf State.reset.crc = 0) ∧
    (({ State.reset with crc := 7 } : State).Normal ∧ ({ State.reset with crc := 7 } : State).LegalLn8 ∧ ivOf 7 = 7) := by decide

theorem test_witness_DinitStartsWhereEncodeEnds : 8 % 8 = 0 ∧ 8 ≤ 8 := by decide

theorem test_witness_PositionsWrapInTheBody : 8 % 8 = 0 ∧ 8 ≤ 8 ∧ 0 < 8 ∧ 7 < 8 := by decide

theorem test_witness_StepFunctionsAreInverse :
    estep 0x00 0x65 0x7A = (0xC7, 0xBD) ∧ dstep 0xC7 0x65 0xBD = (0x00, 0x7A) := by decide

/-- The step and walk statements ask for `CanStep`: at an inner position and at both ends of the body. -/
theorem test_witness_CanStep :
    (example16 plain 0 0x7A).CanStep ∧ (example16 plain 1 0x7A).CanStep ∧ (example16 plain 15 0x7A).CanStep := by decide

theorem test_witness_EstepTransformsOneByte : (example16 plain 0 0x7A).CanStep ∧ (example16 plain 15 0x7A).CanStep := by decide
theorem test_witness_DstepTransformsOneByte :
    (example16 scrambled 0 0xB9).CanStep ∧ (example16 scrambled 15 0xB9).CanStep := by decide

theorem test_witness_StepsOutsideTheBodyFault :
    (State.reset.err = 0 ∧ ({ State.reset with pos := 8 } : State).ln8.toNat ≤ (8 : Addr).toNat) ∧ faulted.err ≠ 0 ∧
    Instr.dwalk ∈ [Instr.estep, .dstep, .ewalk, .dwalk] := by decide

theorem test_witness_EwalkIsLn8Esteps : (example16 plain 1 0x7A).CanStep ∧ 16 ≤ 16 := by decide
theorem test_witness_DwalkIsLn8Dsteps : (example16 scrambled 2 0xB9).CanStep ∧ 16 ≤ 16 := by decide

theorem test_witness_WalksVisitEachOffsetOnce :
    (8 % 8 = 0 ∧ 8 ≤ 8 ∧ 7 < 8 ∧ 0 ≤ 8) ∧ (example16 plain 1 0x7A).CanStep ∧ 16 ≤ (example16 plain 1 0x7A).ln8.toNat := by decide

/-- Two states that agree on the keystream byte and the body and differ in key, direction and position. -/
theorem test_witness_KeystreamSumLaw :
    (example16 scrambled 2 0xB9).CanStep ∧ ({ example16 scrambled 5 0xB9 with dir := 0, key := [] } : State).CanStep ∧
    (∃ t, exec .dwalk (example16 scrambled 2 0xB9) = .next t) ∧
    ∃ t, exec .dwalk { example16 scrambled 5 0xB9 with dir := 0, key := [] } = .next t :=
  ⟨by decide, by decide, ⟨_, rfl⟩, _, rfl⟩

theorem test_witness_WalkRoundTrip :
    (example16 plain 1 0x7A).Normal ∧ (example16 plain 1 0x7A).LegalLn8 ∧ (example16 plain 1 0x7A).LegalKlen := by decide

theorem test_witness_LateBytesDoNotReachEarlierOutput :
    (example16 plain 1 0x7A).CanStep ∧ 0 < (example16 plain 1 0x7A).ln8.toNat ∧ 15 < (example16 plain 1 0x7A).ln8.toNat := by
  decide

theorem test_witness_OnlyNamedCommandsWriteEachRegister :
    (∃ t, exec (.crcb 0x68) State.reset = .next t ∧ t.crc ≠ State.reset.crc) ∧
    (∃ t, exec .estep (example16 plain 1 0x7A) = .next t ∧ t.pos ≠ (example16 plain 1 0x7A).pos ∧
      t.xOr ≠ (example16 plain 1 0x7A).xOr ∧ t.buf ≠ (example16 plain 1 0x7A).buf) ∧
    (∃ t, exec (.wrr 3 16) State.reset = .next t ∧ t.ln8 ≠ State.reset.ln8) ∧
    (∃ t, exec (.wrr 4 16) State.reset = .next t ∧ t.klen ≠ State.reset.klen) ∧
    (∃ t, exec (.dinit 1 0xB9) State.reset = .next t ∧ t.dir ≠ State.reset.dir) ∧
    (∃ t, exec (.rol 0x81 1) State.reset = .next t ∧ t.rot ≠ State.reset.rot) ∧
    (∃ t, exec (.rdr 31) State.reset = .next t ∧ t.err ≠ State.reset.err) ∧
    (∃ t, exec (.rdr 0) State.reset = .next t ∧ t.rsp ≠ State.reset.rsp) ∧
    ∃ t, exec (.stk 0 0x73) State.reset = .next t ∧ t.key ≠ State.reset.key :=
  ⟨⟨_, rfl, by decide⟩, ⟨_, rfl, by decide, by decide, by decide⟩, ⟨_, rfl, by decide⟩, ⟨_, rfl, by decide⟩, ⟨_, rfl, by decide⟩,
    ⟨_, rfl, by decide⟩, ⟨_, rfl, by decide⟩, ⟨_, rfl, by decide⟩, _, rfl, by decide⟩

/-- The last salted offset and the first of the two that are left, in a frame of 22 bytes. -/
theorem test_witness_SaltingIsSelfInverse : 19 + 2 < (plain ++ [0, 0, 0, 0, 0, 0]).length ∧
    (plain ++ [0, 0, 0, 0, 0, 0]).length ≤ 20 + 2 := by decide

/-- The payload "hi" with the password "secret" (95_test_vectors 1.4). -/
theorem test_witness_DecodeOfEncodedFrameIsThePayload :
    State.reset.Inv ∧ State.reset.Normal ∧ 1 ≤ ([0x68, 0x69] : List Byte).length ∧
    ([0x68, 0x69] : List Byte).length ≤ 65535 ∧ 6 ≤ (keyBytes.take 6).length ∧
    bodyLength ([0x68, 0x69] : List Byte).length ≤ State.reset.cfg.bufSize ∧
    (normalise (keyBytes.take 6)).length ≤ State.reset.cfg.keySize ∧ (normalise (keyBytes.take 6)).length < 131072 := by decide

end Sys2Proof.Tests
end

section
/-! Steps, registers and positions: a step by the host's next transaction, the numbers of the registers, and where the
engines leave the position. -/

namespace Sys2Proof.Machine

/-! ### One step, by the next transaction -/

theorem step_of_idle {s : State} (h : s.input = []) : step s = .next s := by
  simp [step, State.nextTransaction, h]

theorem step_of_command {s : State} {w : Word} {rest : List Transaction} (h : s.input = .command w :: rest) :
    step s = execWord w { s with input := rest } := by
  simp [step, State.nextTransaction, h, transact]

theorem step_of_reset {s : State} {rest : List Transaction} (h : s.input = .reset :: rest) :
    step s = .next ({ s with input := rest } : State).resetRegisters := by
  simp [step, State.nextTransaction, h, transact]

theorem execWord_of_ok {w : Word} {i : Instr} (h : decode w = .ok i) (s : State) : execWord w s = exec i s := by
  simp [execWord, h]

theorem execWord_of_error {w : Word} {e : Reject} (h : decode w = .error e) (s : State) :
    execWord w s = .next (s.raise (rejectCode e)) := by
  simp [execWord, h]

/-! ### Register numbers -/

/-- The number of a register (10_state R21), the inverse of `regOfNumber`. -/
def Reg.number : Reg → Nat
  | .crc => 0
  | .xOr => 1
  | .pos => 2
  | .ln8 => 3
  | .klen => 4
  | .dir => 5
  | .rot => 6
  | .iv => 7
  | .par => 8
  | .x0 => 9
  | .err => 10

theorem regOfNumber_eq_some {r : Nat} {g : Reg} : regOfNumber r = some g ↔ r = g.number := by
  constructor
  · intro h
    unfold regOfNumber at h
    split at h <;> cases h <;> rfl
  · rintro rfl
    cases g <;> rfl

/-! ### The position after a walk -/

/-- How far up, modulo `L`, an encode iteration moves the position (43_walk R160): one place down is `L - 1` places up. -/
def encStride (L : Nat) (dir : BitVec 1) : Nat := if dir = 1 then L - 1 else 1

/-- How far up, modulo `L`, a decode iteration moves the position (43_walk R160). -/
def decStride (L : Nat) (dir : BitVec 1) : Nat := if dir = 1 then 1 else L - 1

theorem incPos_eq_mod {q L : Nat} (h : q < L) : incPos q L = (q + 1) % L := by
  unfold incPos
  split
  · rw [show q + 1 = L by omega, Nat.mod_self]
  · rw [Nat.mod_eq_of_lt (by omega)]

theorem decPos_eq_mod {q L : Nat} (h : q < L) : decPos q L = (q + (L - 1)) % L := by
  unfold decPos
  split
  · next hq => rw [hq, Nat.zero_add, Nat.mod_eq_of_lt (by omega)]
  · rw [show q + (L - 1) = q - 1 + L by omega, Nat.add_mod_right, Nat.mod_eq_of_lt (by omega)]

theorem encAdv_eq_mod {q L : Nat} (dir : BitVec 1) (h : q < L) : encAdv q L dir = (q + encStride L dir) % L := by
  unfold encAdv encStride
  split
  · exact decPos_eq_mod h
  · exact incPos_eq_mod h

theorem decAdv_eq_mod {q L : Nat} (dir : BitVec 1) (h : q < L) : decAdv q L dir = (q + decStride L dir) % L := by
  unfold decAdv decStride
  split
  · exact incPos_eq_mod h
  · exact decPos_eq_mod h

/-- An iteration that moves the position by a stride which the walk does not change moves it `n` strides in `n`
iterations. -/
theorem repeatStep_pos {f : State → State} {stride : Nat → BitVec 1 → Nat} (hf : ∀ s, SameButWalk s (f s))
    (hpos : ∀ s : State, s.pos.toNat < s.ln8.toNat →
      (f s).pos.toNat = (s.pos.toNat + stride s.ln8.toNat s.dir) % s.ln8.toNat)
    (n : Nat) {s : State} (h : s.pos.toNat < s.ln8.toNat) :
    (repeatStep f n s).pos.toNat = (s.pos.toNat + n * stride s.ln8.toNat s.dir) % s.ln8.toNat := by
  induction n with
  | zero => simpa [repeatStep] using (Nat.mod_eq_of_lt h).symm
  | succ n ih =>
    have hsame := repeatStep_same hf n s
    have hlt : (repeatStep f n s).pos.toNat < (repeatStep f n s).ln8.toNat := by
      rw [ih, hsame.ln8]; exact Nat.mod_lt _ (by omega)
    rw [repeatStep_succ, hpos _ hlt, ih, hsame.ln8, hsame.dir, Nat.mod_add_mod, Nat.succ_mul, Nat.add_assoc]

theorem repeatStep_encodeStep_pos (n : Nat) {s : State} (h : s.pos.toNat < s.ln8.toNat) :
    (repeatStep encodeStep n s).pos.toNat = (s.pos.toNat + n * encStride s.ln8.toNat s.dir) % s.ln8.toNat :=
  repeatStep_pos encodeStep_same (fun _ hu => (encodeStep_pos hu).trans (encAdv_eq_mod _ hu)) n h

theorem repeatStep_decodeStep_pos (n : Nat) {s : State} (h : s.pos.toNat < s.ln8.toNat) :
    (repeatStep decodeStep n s).pos.toNat = (s.pos.toNat + n * decStride s.ln8.toNat s.dir) % s.ln8.toNat :=
  repeatStep_pos decodeStep_same (fun _ hu => (decodeStep_pos hu).trans (decAdv_eq_mod _ hu)) n h

/-- `EWALK` ends where it started: `LN8` strides are a multiple of `LN8` (43_walk R168). -/
theorem ewalk_pos {s : State} (h : s.pos.toNat < s.ln8.toNat) : (repeatStep encodeStep s.ln8.toNat s).pos = s.pos := by
  apply BitVec.eq_of_toNat_eq
  rw [repeatStep_encodeStep_pos _ h, Nat.add_mul_mod_self_left, Nat.mod_eq_of_lt h]

/-- `DWALK` ends where it started (43_walk R168). -/
theorem dwalk_pos {s : State} (h : s.pos.toNat < s.ln8.toNat) : (repeatStep decodeStep s.ln8.toNat s).pos = s.pos := by
  apply BitVec.eq_of_toNat_eq
  rw [repeatStep_decodeStep_pos _ h, Nat.add_mul_mod_self_left, Nat.mod_eq_of_lt h]

end Sys2Proof.Machine
end

section
/-! The invariant of the block: reset meets the invariant of 70_reset R266, every command and every step keeps it,
and from a state that meets it none of them stops the model. -/

namespace Sys2Proof.Machine

/-! ### Each named update keeps the invariant -/

theorem legalLength_iff {size v : Nat} : legalLength size v = true ↔ v % 8 = 0 ∧ 8 ≤ v ∧ v ≤ size := by
  simp [legalLength, and_assoc]

theorem FaultCode.code_le (c : FaultCode) : c.code.toNat ≤ 6 := by cases c <;> decide

theorem State.Inv.recordFault {s : State} (hs : s.Inv) (c : FaultCode) : ({ s with err := c.code } : State).Inv := by
  obtain ⟨hln8, hklen, -, hbuf, hkey, hcfg⟩ := hs
  exact ⟨hln8, hklen, c.code_le, hbuf, hkey, hcfg⟩

/-- The reset value 8 of `LN8` and `KLEN` is legal for all parameters, since no memory is smaller (00_scope R8, R9). -/
theorem State.Inv.resetRegisters {s : State} (hs : s.Inv) : s.resetRegisters.Inv := by
  obtain ⟨-, -, -, hbuf, hkey, hcfg⟩ := hs
  have ⟨⟨_, hbufMin, _⟩, _, hkeyMin, _⟩ := hcfg
  have h8 : (8 : Addr).toNat % 8 = 0 := rfl
  exact ⟨⟨h8, le_rfl, hbufMin⟩, ⟨h8, le_rfl, hkeyMin⟩, Nat.zero_le 6, hbuf, hkey, hcfg⟩

theorem State.Inv.writeReg {s : State} (hs : s.Inv) {g : Reg} {v : Nat} (hfits : regFits g v = true)
    (hlegal : regLegal s.cfg g v = true) : (s.writeReg g v).Inv := by
  obtain ⟨hln8, hklen, hinv⟩ := hs
  have hv : v < 2 ^ regWidth g := of_decide_eq_true hfits
  cases g with
  | ln8 =>
    have hread : (BitVec.ofNat 17 v).toNat = v := Nat.mod_eq_of_lt hv
    exact ⟨by simpa only [State.LegalLn8, State.writeReg, hread] using legalLength_iff.1 hlegal, hklen, hinv⟩
  | klen =>
    have hread : (BitVec.ofNat 17 v).toNat = v := Nat.mod_eq_of_lt hv
    exact ⟨hln8, by simpa only [State.LegalKlen, State.writeReg, hread] using legalLength_iff.1 hlegal, hinv⟩
  | _ => exact ⟨hln8, hklen, hinv⟩

theorem State.Inv.writeBuf {s : State} (hs : s.Inv) {a : Nat} (ha : a < s.cfg.bufSize) (d : Byte) :
    (s.writeBuf a d).Inv := by
  obtain ⟨hln8, hklen, herr, hbuf, hkey, hcfg⟩ := hs
  exact ⟨hln8, hklen, herr, Memory.wf_write d ha hbuf, hkey, hcfg⟩

theorem State.Inv.writeKey {s : State} (hs : s.Inv) {a : Nat} (ha : a < s.cfg.keySize) (d : Byte) :
    (s.writeKey a d).Inv := by
  obtain ⟨hln8, hklen, herr, hbuf, hkey, hcfg⟩ := hs
  exact ⟨hln8, hklen, herr, hbuf, Memory.wf_write d ha hkey, hcfg⟩

theorem State.Inv.ln8_le {s : State} (hs : s.Inv) : s.ln8.toNat ≤ s.cfg.bufSize := by
  obtain ⟨⟨-, -, hle⟩, -⟩ := hs
  exact hle

/-- An engine's iteration writes inside the body, hence inside `BUF`. -/
theorem State.Inv.stepTo {s : State} (hs : s.Inv) (hpos : s.pos.toNat < s.ln8.toNat) (r : Byte × Byte) (p : Nat) :
    (s.stepTo r p).Inv :=
  hs.writeBuf (hpos.trans_le hs.ln8_le) r.1

/-! ### An engine at work keeps more: its position stays in the body -/

/-- The invariant of a walk. -/
def State.WalkInv (s : State) : Prop := s.Inv ∧ s.pos.toNat < s.ln8.toNat

theorem State.WalkInv.encodeStep {s : State} (h : s.WalkInv) : (encodeStep s).WalkInv := by
  obtain ⟨hinv, hpos⟩ := h
  exact ⟨hinv.stepTo hpos _ _, (encodeStep_pos hpos).trans_lt (encAdv_lt s.dir hpos)⟩

theorem State.WalkInv.decodeStep {s : State} (h : s.WalkInv) : (decodeStep s).WalkInv := by
  obtain ⟨hinv, hpos⟩ := h
  exact ⟨hinv.stepTo hpos _ _, (decodeStep_pos hpos).trans_lt (decAdv_lt s.dir hpos)⟩

/-! ### Commands and steps keep the invariant -/

theorem Effect.keeps_inv {i : Instr} {s t : State} (h : Effect s i t) (hs : s.Inv) : t.Inv := by
  cases h with
  | nop | ignored => exact hs
  | faulted i c => exact hs.recordFault c
  | rst => exact hs.resetRegisters
  | rdr | ldb | rol | rolr | ror | rorr | crci | crcb | crcr | einit | dinit => exact hs
  | wrr r v g _ _ _ hfits hlegal => exact hs.writeReg hfits hlegal
  | stb a d _ ha => exact hs.writeBuf ha d
  | stk a d _ ha => exact hs.writeKey ha d
  | estep _ hpos => exact hs.stepTo hpos _ _
  | dstep _ hpos => exact hs.stepTo hpos _ _
  | ewalk _ hpos => exact (repeatStep_keeps (P := State.WalkInv) (fun _ => .encodeStep) _ ⟨hs, hpos⟩).1
  | dwalk _ hpos => exact (repeatStep_keeps (P := State.WalkInv) (fun _ => .decodeStep) _ ⟨hs, hpos⟩).1

theorem State.Inv.raise {s : State} (hs : s.Inv) (c : FaultCode) : (s.raise c).Inv := by
  by_cases h0 : s.err = 0
  · rw [State.raise_normal h0]; exact hs.recordFault c
  · rw [State.raise_faulted h0]; exact hs

theorem execWord_keeps_inv {w : Word} {s t : State} (hs : s.Inv) (h : execWord w s = .next t) : t.Inv := by
  rcases execWord_next h with ⟨i, -, hexec⟩ | ⟨e, -, rfl⟩
  · exact (exec_effect hexec).keeps_inv hs
  · exact hs.raise _

theorem step_keeps_inv {s t : State} (hs : s.Inv) (h : step s = .next t) : t.Inv := by
  rcases step_next h with ⟨-, rfl⟩ | ⟨w, rest, -, hw⟩ | ⟨rest, -, rfl⟩
  · exact hs
  · exact execWord_keeps_inv (s := { s with input := rest }) hs hw
  · exact State.Inv.resetRegisters (s := { s with input := rest }) hs

/-! ### From a state that meets the invariant nothing stops the model -/

/-- The outcome is a next state. -/
def Completes (o : Host.Outcome State Fault Refusal) : Prop := ∃ t, o = .next t

theorem completes_next (t : State) : Completes (.next t) := ⟨t, rfl⟩

theorem State.unlessFaulted_completes (s : State) {k : Host.Outcome State Fault Refusal} (hk : Completes k) :
    Completes (s.unlessFaulted k) := by
  unfold State.unlessFaulted
  split
  · exact hk
  · exact completes_next s

/-- Every check of `WRR` ends in a next state, and none of them answers the host. -/
theorem execWrr_answers (r v : Nat) (s : State) : ∃ t, execWrr r v s = .next t ∧ t.rsp = s.rsp := by
  unfold execWrr State.unlessFaulted
  split
  · split
    · exact ⟨_, rfl, s.raise_rsp _⟩
    · split
      · exact ⟨_, rfl, s.raise_rsp _⟩
      · split
        · exact ⟨_, rfl, s.raise_rsp _⟩
        · split
          · exact ⟨_, rfl, s.raise_rsp _⟩
          · exact ⟨_, rfl, s.writeReg_rsp _ _⟩
  · exact ⟨s, rfl, rfl⟩

theorem execRdr_completes (r : Nat) (s : State) : Completes (execRdr r s) := by
  unfold execRdr
  split <;> exact completes_next _

theorem execLdb_completes (a : Nat) (s : State) : Completes (execLdb a s) := by
  unfold execLdb
  split <;> exact completes_next _

/-- The body of a state that meets the invariant lies in `BUF`, so `CRCR` has every byte it reads. -/
theorem execCrcr_completes {s : State} (hs : s.Inv) : Completes (execCrcr s) := by
  refine s.unlessFaulted_completes ?_
  rw [if_neg (Nat.not_lt.2 hs.ln8_le)]
  exact completes_next _

/-- An engine faults with `ERR_POS` or runs; both of the model's own stops need an illegal length. -/
theorem State.engine_completes {s : State} (hs : s.Inv) (k : State) : Completes (s.engine k) := by
  obtain ⟨hln8, hklen, -⟩ := hs
  by_cases h0 : s.err = 0
  · by_cases hpos : s.pos.toNat < s.ln8.toNat
    · exact ⟨k, State.engine_of_canStep ⟨h0, hpos, hln8, hklen⟩ k⟩
    · unfold State.engine
      rw [if_pos (Nat.not_lt.1 hpos)]
      exact s.unlessFaulted_completes (completes_next _)
  · exact ⟨s, State.unlessFaulted_faulted h0 _⟩

theorem exec_completes {s : State} (hs : s.Inv) (i : Instr) : Completes (exec i s) := by
  cases i with
  | nop | rst => exact completes_next _
  | wrr r v =>
    obtain ⟨t, ht, -⟩ := execWrr_answers r v s
    exact ⟨t, ht⟩
  | rdr r => exact execRdr_completes r s
  | stb | stk =>
    refine s.unlessFaulted_completes ?_
    split <;> exact completes_next _
  | ldb a => exact execLdb_completes a s
  | rol | rolr | ror | rorr | crci | crcb | einit | dinit => exact s.unlessFaulted_completes (completes_next _)
  | crcr => exact execCrcr_completes hs
  | estep | dstep | ewalk | dwalk => exact State.engine_completes hs _

theorem execWord_completes {s : State} (hs : s.Inv) (w : Word) : Completes (execWord w s) := by
  unfold execWord
  split
  · exact exec_completes hs _
  · exact completes_next _

theorem step_completes {s : State} (hs : s.Inv) : Completes (step s) := by
  cases hin : s.input with
  | nil => rw [step_of_idle hin]; exact completes_next s
  | cons x rest =>
    cases x with
    | command w =>
      rw [step_of_command hin]
      exact execWord_completes (s := { s with input := rest }) hs w
    | reset => rw [step_of_reset hin]; exact completes_next _

theorem core_run_succ (M : Host.Core) {s u : M.State} (h : M.step s = .next u) (n : Nat) :
    M.run (n + 1) s = M.run n u := by
  simp only [Host.Core.run, h]

/-- Settles O17, by induction on the number of steps: each one completes and keeps the invariant. -/
theorem everyRunCompletes : Obligations.EveryRunCompletes := by
  intro n
  induction n with
  | zero => exact fun s hs => ⟨s, rfl, hs⟩
  | succ n ih =>
    intro s hs
    obtain ⟨u, hu⟩ := step_completes hs
    rw [core_run_succ Sys2Proof.core hu]
    exact ih u (step_keeps_inv hs hu)

/-- Settles O15: the reset values are legal for the default parameters, and nothing has been written to either memory. -/
theorem resetMeetsTheInvariant : Obligations.ResetMeetsTheInvariant := by
  have hcfg : Config.default.Legal := by decide
  obtain ⟨hbuf, hkey⟩ := reset_memories_wf
  exact ⟨by decide, by decide, by decide, hbuf, hkey, hcfg⟩

end Sys2Proof.Machine
end

section
/-! What a command and a step leave alone: the fault state, the writers of each part of the state, and what a step
leaves in `RSP`. -/

namespace Sys2Proof.Machine

/-- Settles O10, through the equations of `step` and `execWord`. -/
theorem stepRunsTheDecodedCommand : Obligations.StepRunsTheDecodedCommand := by
  intro s w rest i hin hdecode _
  rw [step_of_command hin, execWord_of_ok hdecode]

/-! ### The fault state -/

/-- With a fault recorded a command changes `RSP` at most, or it is `RST`. -/
theorem Effect.of_faulted {i : Instr} {s t : State} (h : Effect s i t) (he : s.err ≠ 0) :
    t = { s with rsp := t.rsp } ∨ (i = .rst ∧ t.err = 0) := by
  cases h with
  | nop | ignored | rdr | ldb => exact .inl rfl
  | rst => exact .inr ⟨rfl, rfl⟩
  | _ => exact absurd ‹s.err = 0› he

theorem execWord_of_faulted {w : Word} {s t : State} (he : s.err ≠ 0) (h : execWord w s = .next t) :
    t = { s with rsp := t.rsp } ∨ (decode w = .ok .rst ∧ t.err = 0) := by
  rcases execWord_next h with ⟨i, hdecode, hexec⟩ | ⟨e, -, rfl⟩
  · rcases (exec_effect hexec).of_faulted he with hrsp | ⟨rfl, h0⟩
    · exact .inl hrsp
    · exact .inr ⟨hdecode, h0⟩
  · rw [State.raise_faulted he]
    exact .inl rfl

/-- Settles O22, by the next transaction: none, a word, or the reset input. -/
theorem firstFaultSticksUntilReset : Obligations.FirstFaultSticksUntilReset := by
  intro s t he h
  rcases step_next h with ⟨hin, rfl⟩ | ⟨w, rest, hin, hw⟩ | ⟨rest, hin, rfl⟩
  · left
    rw [hin, List.tail_nil, ← hin]
  · rcases execWord_of_faulted (s := { s with input := rest }) he hw with hrsp | ⟨hrst, h0⟩
    · left
      rw [hin]
      exact hrsp
    · exact .inr ⟨h0, .inr ⟨w, rest, hin, hrst⟩⟩
  · exact .inr ⟨rfl, .inl ⟨rest, hin⟩⟩

/-! ### The writers of each register and memory -/

/-- Settles O57, by the effect of the command. -/
theorem onlyNamedCommandsWriteEachRegister : Obligations.OnlyNamedCommandsWriteEachRegister := by
  intro s t i h
  cases exec_effect h with
  | nop | ignored => simp
  | faulted i c h0 => simp [h0]
  | rst => simp
  | rdr | ldb | stb | stk | rol | rolr | ror | rorr | crci | crcb | crcr | einit | dinit => simp
  | wrr r v g _ hg =>
    rw [regOfNumber_eq_some] at hg
    subst hg
    cases g <;> simp [State.writeReg, Reg.number]
  | estep => simp [encodeStep]
  | dstep => simp [decodeStep]
  | ewalk _ hpos =>
    obtain ⟨hcrc, hln8, hklen, hdir, hrot, herr, hrsp, hkey, hcfg, hinput⟩ :=
      repeatStep_same encodeStep_same s.ln8.toNat s
    simp [*, ewalk_pos hpos]
  | dwalk _ hpos =>
    obtain ⟨hcrc, hln8, hklen, hdir, hrot, herr, hrsp, hkey, hcfg, hinput⟩ :=
      repeatStep_same decodeStep_same s.ln8.toNat s
    simp [*, dwalk_pos hpos]

/-! ### What a step leaves in `RSP` -/

/-- What the port `rsp` shows after an outcome, if the machine goes on. -/
def rspOf (o : Host.Outcome State Fault Refusal) : Option Word := (nextOf o).map (·.rsp)

@[simp] theorem rspOf_next (t : State) : rspOf (.next t) = some t.rsp := rfl

theorem rspOf_unlessFaulted (s : State) (k : Host.Outcome State Fault Refusal) :
    rspOf (s.unlessFaulted k) = if s.err = 0 then rspOf k else some s.rsp := by
  unfold State.unlessFaulted
  split <;> rfl

theorem rspOf_unlessFaulted_same {s : State} {k : Host.Outcome State Fault Refusal} (hk : rspOf k = some s.rsp) :
    rspOf (s.unlessFaulted k) = some s.rsp := by
  rw [rspOf_unlessFaulted, hk, ite_self]

/-- No fault of the block is recorded or raised, but an address that an engine would use does not exist (log 6). -/
abbrev State.EngineStops (s : State) : Prop :=
  s.err = 0 ∧ s.pos.toNat < s.ln8.toNat ∧
    (s.cfg.bufSize < s.ln8.toNat ∨ s.klen.toNat = 0 ∨ s.cfg.keySize < s.klen.toNat)

theorem rspOf_engine {s k : State} (hk : k.rsp = s.rsp) :
    rspOf (s.engine k) = if s.EngineStops then none else some s.rsp := by
  unfold State.engine
  rw [rspOf_unlessFaulted]
  split
  · next h0 =>
    split
    · next hpos =>
      rw [if_neg fun ⟨_, hlt, _⟩ => absurd hlt (Nat.not_lt.2 hpos), rspOf_next, State.raise_rsp]
    · next hpos =>
      have hlt := Nat.not_le.1 hpos
      split
      · next hbuf => rw [if_pos ⟨h0, hlt, .inl hbuf⟩]; rfl
      · next hbuf =>
        split
        · next hkey => rw [if_pos ⟨h0, hlt, .inr hkey⟩]; rfl
        · next hkey => rw [if_neg fun ⟨_, _, hstop⟩ => hstop.elim hbuf hkey, rspOf_next, hk]
  · next h0 => rw [if_neg fun ⟨h, _⟩ => h0 h]

/-- All that a command can leave in `RSP`: only `RST`, `RDR` and `LDB` write it (10_state R34). -/
def State.rspAfter (s : State) : Instr → Option Word
  | .rst => some 0
  | .rdr r => some (((regOfNumber r).map s.readReg).getD s.rsp)
  | .ldb a => some (if s.cfg.bufSize ≤ a then s.rsp else (s.readBuf a).zeroExtend 32)
  | .crcr => if s.err = 0 ∧ s.cfg.bufSize < s.ln8.toNat then none else some s.rsp
  | .estep | .dstep | .ewalk | .dwalk => if s.EngineStops then none else some s.rsp
  | _ => some s.rsp

theorem rspOf_exec (i : Instr) (s : State) : rspOf (exec i s) = s.rspAfter i := by
  cases i with
  | nop | rst => rfl
  | wrr r v =>
    obtain ⟨t, ht, hrsp⟩ := execWrr_answers r v s
    rw [exec, ht, rspOf_next, hrsp]
    rfl
  | rdr r =>
    simp only [exec, execRdr, State.rspAfter]
    split <;> simp [*]
  | ldb a =>
    simp only [exec, execLdb, State.rspAfter]
    split <;> simp
  | stb | stk =>
    refine rspOf_unlessFaulted_same ?_
    split <;> simp
  | rol | rolr | ror | rorr | crci | crcb | einit | dinit => exact rspOf_unlessFaulted_same rfl
  | crcr =>
    simp only [exec, execCrcr, State.rspAfter, rspOf_unlessFaulted, ite_and]
    split
    · split <;> rfl
    · rfl
  | estep => exact rspOf_engine (encodeStep_same s).rsp
  | dstep => exact rspOf_engine (decodeStep_same s).rsp
  | ewalk => exact rspOf_engine (repeatStep_same encodeStep_same _ s).rsp
  | dwalk => exact rspOf_engine (repeatStep_same decodeStep_same _ s).rsp

/-- No register and no view shows a byte of `KEY`. -/
theorem State.readReg_of_key (s : State) (m : Memory) (g : Reg) : ({ s with key := m } : State).readReg g = s.readReg g := by
  cases g <;> rfl

theorem State.rspAfter_of_key (s : State) (m : Memory) (i : Instr) :
    ({ s with key := m } : State).rspAfter i = s.rspAfter i := by
  cases i with
  | rdr r => simp only [State.rspAfter, funext (s.readReg_of_key m)]
  | _ => rfl

theorem rspOf_execWord_of_key (w : Word) (s : State) (m : Memory) :
    rspOf (execWord w { s with key := m }) = rspOf (execWord w s) := by
  cases hw : decode w with
  | ok i => rw [execWord_of_ok hw, execWord_of_ok hw, rspOf_exec, rspOf_exec, State.rspAfter_of_key]
  | error e => simp [execWord_of_error hw]

/-- Settles O58, by the next transaction. -/
theorem noStepReturnsAKeyByte : Obligations.NoStepReturnsAKeyByte := by
  intro s m
  change rspOf (step { s with key := m }) = rspOf (step s)
  cases hin : s.input with
  | nil => rw [step_of_idle hin, step_of_idle rfl]; rfl
  | cons x rest =>
    cases x with
    | command w =>
      rw [step_of_command hin, step_of_command rfl]
      exact rspOf_execWord_of_key w { s with input := rest } m
    | reset => rw [step_of_reset hin, step_of_reset rfl]; rfl

end Sys2Proof.Machine
end

section
/-! Memory and the order of commands: addresses that do not exist, and runs over pending words. No command looks at the
transactions that are still pending, so a run over pending words is the fold of `execWord` over them. -/

namespace Sys2Proof.Machine

/-! ### Addresses that do not exist -/

theorem execStb_of_beyond {s : State} {a : Nat} (h0 : s.err = 0) (ha : s.cfg.bufSize ≤ a) (d : Byte) :
    execStb a d s = .next { s with err := FaultCode.adr.code } := by
  rw [execStb, State.unlessFaulted_normal h0, if_pos ha, State.raise_normal h0]

theorem execLdb_of_beyond {s : State} {a : Nat} (h0 : s.err = 0) (ha : s.cfg.bufSize ≤ a) :
    execLdb a s = .next { s with err := FaultCode.adr.code } := by
  rw [execLdb, if_pos ha, State.raise_normal h0]

theorem execStk_of_beyond {s : State} {a : Nat} (h0 : s.err = 0) (ha : s.cfg.keySize ≤ a) (d : Byte) :
    execStk a d s = .next { s with err := FaultCode.adr.code } := by
  rw [execStk, State.unlessFaulted_normal h0, if_pos ha, State.raise_normal h0]

/-- Settles O32: the range check of each command comes before its access. -/
theorem addressesBeyondAMemoryFault : Obligations.AddressesBeyondAMemoryFault :=
  fun _ _ d h0 => ⟨(execStb_of_beyond h0 · d), execLdb_of_beyond h0, (execStk_of_beyond h0 · d)⟩

/-! ### Outcomes in sequence -/

@[simp] theorem andThen_fault (f : Fault) (k : State → Host.Outcome State Fault Refusal) :
    andThen (.fault f) k = .fault f := rfl

theorem andThen_assoc (o : Host.Outcome State Fault Refusal) (k l : State → Host.Outcome State Fault Refusal) :
    andThen (andThen o k) l = andThen o fun t => andThen (k t) l := by
  cases o <;> rfl

theorem core_run_succ_fault (M : Host.Core) {s : M.State} {f : M.Fault} (h : M.step s = .fault f) (n : Nat) :
    M.run (n + 1) s = .fault f := by
  simp only [Host.Core.run, h]

theorem core_run_succ_refused (M : Host.Core) {s : M.State} {r : M.Refusal} (h : M.step s = .refused r) (n : Nat) :
    M.run (n + 1) s = .refused r := by
  simp only [Host.Core.run, h]

theorem core_run_succ_eq_andThen (n : Nat) (s : State) :
    Host.Core.run Sys2Proof.core (n + 1) s = andThen (step s) (Host.Core.run Sys2Proof.core n) := by
  cases h : step s with
  | next t => exact core_run_succ Sys2Proof.core h n
  | fault f => exact core_run_succ_fault Sys2Proof.core h n
  | refused r => exact core_run_succ_refused Sys2Proof.core h n

/-! ### No command looks at the pending transactions -/

/-- The state with other transactions pending. -/
def State.withInput (s : State) (x : List Transaction) : State := { s with input := x }

/-- The outcome with other transactions pending in the next state, if there is one. -/
def withInputAfter (o : Host.Outcome State Fault Refusal) (x : List Transaction) : Host.Outcome State Fault Refusal :=
  andThen o fun t => .next (t.withInput x)

@[simp] theorem withInputAfter_next (t : State) (x : List Transaction) :
    withInputAfter (.next t) x = .next (t.withInput x) := rfl

@[simp] theorem withInputAfter_fault (f : Fault) (x : List Transaction) : withInputAfter (.fault f) x = .fault f := rfl

theorem State.raise_withInput (s : State) (x : List Transaction) (c : FaultCode) :
    (s.withInput x).raise c = (s.raise c).withInput x := by
  by_cases h0 : s.err = 0
  · rw [State.raise_normal h0, State.raise_normal (s := s.withInput x) h0]; rfl
  · rw [State.raise_faulted h0, State.raise_faulted (s := s.withInput x) h0]

theorem State.readReg_withInput (s : State) (x : List Transaction) (g : Reg) :
    (s.withInput x).readReg g = s.readReg g := by
  cases g <;> rfl

theorem State.writeReg_withInput (s : State) (x : List Transaction) (g : Reg) (v : Nat) :
    (s.withInput x).writeReg g v = (s.writeReg g v).withInput x := by
  cases g <;> rfl

/-- The check for the fault state does not look at the pending transactions, so only the command behind it matters. -/
theorem State.unlessFaulted_withInput (s : State) (x : List Transaction) {k l : Host.Outcome State Fault Refusal}
    (hk : l = withInputAfter k x) : (s.withInput x).unlessFaulted l = withInputAfter (s.unlessFaulted k) x := by
  by_cases h0 : s.err = 0
  · rw [State.unlessFaulted_normal h0, State.unlessFaulted_normal (s := s.withInput x) h0, hk]
  · rw [State.unlessFaulted_faulted h0, State.unlessFaulted_faulted (s := s.withInput x) h0]; rfl

theorem State.engine_withInput (s : State) (x : List Transaction) {k l : State} (hk : l = k.withInput x) :
    (s.withInput x).engine l = withInputAfter (s.engine k) x := by
  refine s.unlessFaulted_withInput x ?_
  rw [State.raise_withInput, hk]
  simp only [apply_ite (withInputAfter · x), withInputAfter_next, withInputAfter_fault]
  rfl

theorem repeatStep_withInput {f : State → State} {x : List Transaction}
    (hf : ∀ s : State, f (s.withInput x) = (f s).withInput x) (n : Nat) (s : State) :
    repeatStep f n (s.withInput x) = (repeatStep f n s).withInput x := by
  induction n generalizing s with
  | zero => rfl
  | succ n ih => rw [repeatStep, hf, ih, repeatStep]

theorem execWrr_withInput (r v : Nat) (s : State) (x : List Transaction) :
    execWrr r v (s.withInput x) = withInputAfter (execWrr r v s) x := by
  refine s.unlessFaulted_withInput x ?_
  have hcfg : (s.withInput x).cfg = s.cfg := rfl
  simp only [State.raise_withInput, State.writeReg_withInput, hcfg]
  split
  · rfl
  · split
    · rfl
    · split
      · rfl
      · split <;> rfl

theorem exec_withInput (i : Instr) (s : State) (x : List Transaction) :
    exec i (s.withInput x) = withInputAfter (exec i s) x := by
  have hcfg : (s.withInput x).cfg = s.cfg := rfl
  cases i with
  | nop | rst => rfl
  | wrr r v => exact execWrr_withInput r v s x
  | rdr r =>
    simp only [exec, execRdr, State.raise_withInput, State.readReg_withInput]
    split <;> rfl
  | ldb a =>
    simp only [exec, execLdb, State.raise_withInput, hcfg]
    split <;> rfl
  | stb | stk =>
    refine s.unlessFaulted_withInput x ?_
    rw [State.raise_withInput, hcfg]
    split <;> rfl
  | rol | rolr | ror | rorr | crci | crcb | einit | dinit => exact s.unlessFaulted_withInput x rfl
  | crcr =>
    refine s.unlessFaulted_withInput x ?_
    rw [apply_ite (withInputAfter · x)]
    rfl
  | estep | dstep => exact s.engine_withInput x rfl
  | ewalk => exact s.engine_withInput x (repeatStep_withInput (fun _ => rfl) _ s)
  | dwalk => exact s.engine_withInput x (repeatStep_withInput (fun _ => rfl) _ s)

/-- A word has the same effect whatever is pending behind it, and leaves that pending. -/
theorem execWord_withInput (w : Word) (s : State) (x : List Transaction) :
    execWord w (s.withInput x) = withInputAfter (execWord w s) x := by
  cases hw : decode w with
  | ok i => rw [execWord_of_ok hw, execWord_of_ok hw, exec_withInput]
  | error e => rw [execWord_of_error hw, execWord_of_error hw, State.raise_withInput, withInputAfter_next]

/-- A run takes the first pending word and goes on with the others still pending. -/
theorem core_run_of_command (n : Nat) (w : Word) (s : State) (x : List Transaction) :
    Host.Core.run Sys2Proof.core (n + 1) (s.withInput (.command w :: x)) =
      andThen (execWord w s) fun t => Host.Core.run Sys2Proof.core n (t.withInput x) := by
  have hstep : step (s.withInput (.command w :: x)) = withInputAfter (execWord w s) x :=
    (step_of_command rfl).trans (execWord_withInput w s x)
  rw [core_run_succ_eq_andThen, hstep]
  exact andThen_assoc ..

theorem runWords_cons_withInput (w : Word) (ws : List Word) (s : State) (x : List Transaction) :
    runWords (w :: ws) (s.withInput x) = andThen (execWord w s) fun t => runWords ws (t.withInput x) := by
  rw [runWords, execWord_withInput]
  exact andThen_assoc ..

/-- Settles O13, by induction on the words: the first step runs the first word, and neither that word nor the later ones
see what is pending. -/
theorem commandsTakeEffectInIssueOrder : Obligations.CommandsTakeEffectInIssueOrder := by
  intro ws rest
  induction ws with
  | nil => exact fun _ => rfl
  | cons w ws ih =>
    intro s
    have hfirst := core_run_of_command ws.length w s (ws.map .command ++ rest)
    have hlater : (fun t : State => Host.Core.run Sys2Proof.core ws.length (t.withInput (ws.map .command ++ rest))) =
        fun t => runWords ws (t.withInput rest) := funext ih
    exact hfirst.trans ((congrArg (andThen (execWord w s)) hlater).trans (runWords_cons_withInput w ws s rest).symm)

end Sys2Proof.Machine
end

section
/-! Command words: which words decode, and to what. The format of a command cuts its word into fields, some at values
that the format fixes (the opcode, the reserved fields, the source select) and the others holding the operands. A word
decodes to a command exactly when every field has its value (`decode_eq_ok_iff`), and the fields cover the word, so it is
then the command's encoding (`decode_eq_ok_iff_encode`). -/

namespace Sys2Proof

/-! ### Layouts: a number cut into fields -/

/-- The field of bits `hi` down to `lo`, with its value, and whether the format fixes that value. -/
structure BitField where
  hi : Nat
  lo : Nat
  value : Nat
  isFixed : Bool

/-- The value fits the field. -/
def BitField.Fits (f : BitField) : Prop := f.value < 2 ^ (f.hi - f.lo + 1)

/-- The fields follow one another without a gap, from below bit `top` down to bit 0. -/
def Covers : Nat → List BitField → Prop
  | top, [] => top = 0
  | top, f :: fs => f.hi + 1 = top ∧ f.lo ≤ f.hi ∧ Covers f.lo fs

/-- The number whose fields have these values, and whose other bits are 0. -/
def layoutNat : List BitField → Nat
  | [] => 0
  | f :: fs => f.value * 2 ^ f.lo + layoutNat fs

theorem two_pow_top {f : BitField} {top : Nat} (htop : f.hi + 1 = top) (hle : f.lo ≤ f.hi) :
    2 ^ top = 2 ^ f.lo * 2 ^ (f.hi - f.lo + 1) := by
  rw [← pow_add]
  congr 1
  omega

theorem layoutNat_lt {fs : List BitField} {top : Nat} (hc : Covers top fs) (hfit : ∀ f ∈ fs, f.Fits) :
    layoutNat fs < 2 ^ top := by
  induction fs generalizing top with
  | nil => exact Nat.two_pow_pos top
  | cons f fs ih =>
    obtain ⟨htop, hle, hrest⟩ := hc
    obtain ⟨hf, hfs⟩ := List.forall_mem_cons.1 hfit
    calc f.value * 2 ^ f.lo + layoutNat fs
      _ < f.value * 2 ^ f.lo + 2 ^ f.lo := Nat.add_lt_add_left (ih hrest hfs) _
      _ = 2 ^ f.lo * (f.value + 1) := by ring
      _ ≤ 2 ^ f.lo * 2 ^ (f.hi - f.lo + 1) := Nat.mul_le_mul_left _ hf
      _ = 2 ^ top := (two_pow_top htop hle).symm

/-- Quotient and remainder are unique, in the form the layouts need. -/
theorem eq_and_eq_of_add_mul_eq {p low high low' high' : Nat} (h : low + p * high = low' + p * high') (hlow : low < p)
    (hlow' : low' < p) : high = high' ∧ low = low' := by
  have hp : 0 < p := Nat.zero_lt_of_lt hlow
  obtain ⟨hdiv, hmod⟩ := (Nat.div_mod_unique hp).2 ⟨h, hlow⟩
  obtain ⟨hdiv', hmod'⟩ := (Nat.div_mod_unique hp).2 ⟨rfl, hlow'⟩
  exact ⟨hdiv.symm.trans hdiv', hmod.symm.trans hmod'⟩

/-- Where the fields cover the low `top` bits, their values say which number those bits are, and the other way round. -/
theorem fields_eq_iff {fs : List BitField} {top : Nat} (hc : Covers top fs) (x : Nat) :
    (∀ f ∈ fs, x / 2 ^ f.lo % 2 ^ (f.hi - f.lo + 1) = f.value) ↔ x % 2 ^ top = layoutNat fs ∧ ∀ f ∈ fs, f.Fits := by
  induction fs generalizing top with
  | nil => simp [show top = 0 from hc, layoutNat, Nat.mod_one]
  | cons f fs ih =>
    obtain ⟨htop, hle, hrest⟩ := hc
    have hsplit : x % 2 ^ top = x % 2 ^ f.lo + 2 ^ f.lo * (x / 2 ^ f.lo % 2 ^ (f.hi - f.lo + 1)) := by
      rw [two_pow_top htop hle, Nat.mod_mul]
    have hcomm : layoutNat (f :: fs) = layoutNat fs + 2 ^ f.lo * f.value := by
      rw [layoutNat]
      ring
    rw [List.forall_mem_cons, List.forall_mem_cons, ih hrest, hsplit, hcomm]
    constructor
    · rintro ⟨hf, hx, hfs⟩
      have hfit : f.Fits := by
        rw [BitField.Fits, ← hf]
        exact Nat.mod_lt _ (Nat.two_pow_pos _)
      exact ⟨by rw [hf, hx], hfit, hfs⟩
    · rintro ⟨hx, -, hfs⟩
      obtain ⟨hf, hlow⟩ := eq_and_eq_of_add_mul_eq hx (Nat.mod_lt x (Nat.two_pow_pos _)) (layoutNat_lt hrest hfs)
      exact ⟨hf, hlow, hfs⟩

/-! ### The layout of a command's word -/

/-- A field whose value the format fixes. -/
@[simp] def fixedField (hi lo value : Nat) : BitField := ⟨hi, lo, value, true⟩

/-- A field that holds an operand. -/
@[simp] def operandField (hi lo value : Nat) : BitField := ⟨hi, lo, value, false⟩

/-- The fields of a command's word, its opcode first (30_encoding R91 to R96, R98). -/
def Instr.layout (i : Instr) : List BitField :=
  fixedField 31 27 i.opcode ::
    match i with
    | .nop | .rst | .crci | .crcr | .einit | .estep | .dstep | .ewalk | .dwalk => [fixedField 26 0 0]
    | .crcb d => [fixedField 26 8 0, operandField 7 0 d.toNat]
    | .wrr r v => [operandField 26 22 r, fixedField 21 17 0, operandField 16 0 v]
    | .rdr r => [operandField 26 22 r, fixedField 21 17 0, fixedField 16 0 0]
    | .stb a d | .stk a d => [fixedField 26 25 0, operandField 24 8 a, operandField 7 0 d.toNat]
    | .ldb a => [fixedField 26 25 0, operandField 24 8 a, fixedField 7 0 0]
    | .rol v n | .ror v n => [fixedField 26 17 0, fixedField 16 16 0, operandField 15 8 v.toNat, operandField 7 0 n]
    | .rolr n | .rorr n => [fixedField 26 17 0, fixedField 16 16 1, fixedField 15 8 0, operandField 7 0 n]
    | .dinit dir x => [fixedField 26 9 0, operandField 8 8 dir.toNat, operandField 7 0 x.toNat]

theorem layout_covers (i : Instr) : Covers 32 i.layout := by
  cases i <;> simp [Instr.layout, Covers]

theorem encodeNat_eq_layoutNat (i : Instr) : encodeNat i = layoutNat i.layout := by
  cases i <;> simp [encodeNat, Instr.layout, Instr.opcode, layoutNat] <;> omega

theorem wellFormed_iff_fits (i : Instr) : i.wellFormed = true ↔ ∀ f ∈ i.layout, f.Fits := by
  cases i <;> simp [Instr.wellFormed, Instr.layout, Instr.opcode, BitField.Fits] <;> omega

/-- Every field of the command's layout has its value in `W`. -/
def Instr.FieldsIn (i : Instr) (W : Word) : Prop := ∀ f ∈ i.layout, field W f.hi f.lo = f.value

/-- The layout covers the word, so its fields hold their values in one word only, the command's encoding. -/
theorem fieldsIn_iff_encode {i : Instr} {W : Word} : i.FieldsIn W ↔ encode i = W ∧ i.wellFormed = true := by
  have hmod : W.toNat % 2 ^ 32 = W.toNat := Nat.mod_eq_of_lt W.isLt
  have hfields : i.FieldsIn W ↔ W.toNat = encodeNat i ∧ i.wellFormed = true := by
    rw [wellFormed_iff_fits, encodeNat_eq_layoutNat, ← hmod]
    exact fields_eq_iff (layout_covers i) W.toNat
  rw [hfields]
  refine and_congr_left fun hwf => ?_
  have hlt : encodeNat i < 2 ^ 32 :=
    encodeNat_eq_layoutNat i ▸ layoutNat_lt (layout_covers i) ((wellFormed_iff_fits i).1 hwf)
  rw [← BitVec.toNat_inj, encode, BitVec.toNat_ofNat, Nat.mod_eq_of_lt hlt, eq_comm]

/-! ### What a word decodes to -/

@[simp] theorem byteField_toNat (W : Word) (lo : Nat) : (byteField W lo).toNat = field W (lo + 7) lo := by
  simp [byteField, field]

/-- A field of one bit is a bit. -/
@[simp] theorem field_bit_mod_two (W : Word) (b : Nat) : field W b b % 2 = field W b b := by
  simp [field]

/-- `RDR` has its reserved field and the unused `v` side by side, and one test for both (30_encoding R93). -/
theorem field_21_0_eq_zero {W : Word} : field W 21 0 = 0 ↔ field W 21 17 = 0 ∧ field W 16 0 = 0 := by
  simp only [field]
  omega

@[simp] theorem requireZero_eq_ok {zero : Bool} {i j : Instr} : requireZero zero i = .ok j ↔ zero = true ∧ i = j := by
  cases zero <;> simp [requireZero]

@[simp] theorem decodeN_eq_ok {W : Word} {i j : Instr} : decodeN W i = .ok j ↔ field W 26 0 = 0 ∧ i = j := by
  simp [decodeN]

@[simp] theorem decodeT_eq_ok {W : Word} {imm : Byte → Nat → Instr} {reg : Nat → Instr} {j : Instr} :
    decodeT W imm reg = .ok j ↔ field W 26 17 = 0 ∧
      ((field W 16 16 = 0 ∧ imm (byteField W 8) (field W 7 0) = j) ∨
        (field W 16 16 = 1 ∧ field W 15 8 = 0 ∧ reg (field W 7 0) = j)) := by
  have hs : field W 16 16 = 0 ∨ field W 16 16 = 1 := by
    simp only [field]
    omega
  rcases hs with hs | hs <;> simp [decodeT, hs, and_assoc]

/-- Each arm of the decoder is taken on its opcode, tests the fixed fields of its format and reads the operands. -/
theorem fieldsIn_of_decode {W : Word} {i : Instr} (h : decode W = .ok i) : i.FieldsIn W := by
  unfold decode at h
  split at h <;>
    simp only [decodeN_eq_ok, decodeT_eq_ok, requireZero_eq_ok, reduceCtorEq, field_21_0_eq_zero, beq_iff_eq,
      Bool.and_eq_true] at h
  case h_8 | h_9 =>
    obtain ⟨hz, ⟨hs, rfl⟩ | ⟨hs, hv, rfl⟩⟩ := h <;> simp [Instr.FieldsIn, Instr.layout, Instr.opcode, *]
  all_goals
    obtain ⟨hz, rfl⟩ := h
    simp [Instr.FieldsIn, Instr.layout, Instr.opcode, *]

/-- The opcode field selects the decoder's arm, the other fixed fields pass its test, and the operands are what it reads. -/
theorem decode_of_fieldsIn {W : Word} {i : Instr} (h : i.FieldsIn W) : decode W = .ok i := by
  cases i <;>
    simp [Instr.FieldsIn, Instr.layout, Instr.opcode] at h <;>
    simp [decode, byteField, field_21_0_eq_zero, h]

theorem decode_eq_ok_iff {W : Word} {i : Instr} : decode W = .ok i ↔ i.FieldsIn W :=
  ⟨fieldsIn_of_decode, decode_of_fieldsIn⟩

theorem decode_eq_ok_iff_encode {W : Word} {i : Instr} : decode W = .ok i ↔ encode i = W ∧ i.wellFormed = true :=
  decode_eq_ok_iff.trans fieldsIn_iff_encode

/-- Settles O1: the encoding of a well-formed command has the command's fields. -/
theorem decodeOfEncodeIsTheCommand : Obligations.DecodeOfEncodeIsTheCommand :=
  fun _ hwf => decode_eq_ok_iff_encode.2 ⟨rfl, hwf⟩

/-- Settles O2: a word that decodes has the command's fields, and they leave no bit of it open. -/
theorem encodeOfDecodeIsTheWord : Obligations.EncodeOfDecodeIsTheWord :=
  fun _ _ => decode_eq_ok_iff_encode.1

/-- Settles O9: each word is the encoding of its command. -/
theorem exampleWordsDecode : Obligations.ExampleWordsDecode := by
  simp only [Obligations.ExampleWordsDecode, decode_eq_ok_iff_encode]
  decide

/-! ### The formats, field by field -/

theorem extract_toNat_eq_field (W : Word) (lo n : Nat) : (W.extractLsb' lo (n + 1)).toNat = field W (lo + n) lo := by
  simp [field, Nat.shiftRight_eq_div_pow]

theorem extract_eq_iff_field {W : Word} {lo n : Nat} {v : BitVec (n + 1)} :
    W.extractLsb' lo (n + 1) = v ↔ field W (lo + n) lo = v.toNat := by
  rw [← BitVec.toNat_inj, extract_toNat_eq_field]

/-- Settles O3: the layout of each of the nine is its opcode and 27 bits at 0. -/
theorem formatNWordsHaveNoOperandBits : Obligations.FormatNWordsHaveNoOperandBits := by
  intro w p hp
  have hlayout : p.1.layout = [fixedField 31 27 p.2, fixedField 26 0 0] := by
    revert p
    simp [Instr.layout, Instr.opcode]
  rw [decode_eq_ok_iff, Instr.FieldsIn, hlayout]
  simp [-BitVec.extractLsb'_toNat, extract_toNat_eq_field, extract_eq_iff_field]

/-- Settles O4, by the layouts of the four commands. -/
theorem formatIRDWordsHoldTheirOperands : Obligations.FormatIRDWordsHoldTheirOperands := by
  intro w
  simp [-BitVec.extractLsb'_toNat, decode_eq_ok_iff, Instr.FieldsIn, Instr.layout, Instr.opcode, extract_toNat_eq_field,
    extract_eq_iff_field]

/-- Settles O5, by the layouts of the seven commands. -/
theorem formatMTWordsHoldTheirOperands : Obligations.FormatMTWordsHoldTheirOperands := by
  intro w
  simp [-BitVec.extractLsb'_toNat, decode_eq_ok_iff, Instr.FieldsIn, Instr.layout, Instr.opcode, extract_toNat_eq_field,
    extract_eq_iff_field]

end Sys2Proof
end

section
/-! The opcode map, and the words that are no command. The row that a command's layout gives (mask from the places of the
fixed fields, pattern from their values) is the row of the map, so that matching a row is having its fixed fields; what is
left of the word are operands, which any word has. -/

namespace Sys2Proof

open Machine

/-! ### Agreement under a mask -/

theorem and_eq_and_iff_bits {W V m : Word} :
    W &&& m = V &&& m ↔ ∀ k, m.getLsbD k = true → W.getLsbD k = V.getLsbD k := by
  rw [BitVec.eq_of_getLsbD_eq_iff]
  refine ⟨fun h k hk => ?_, fun h k _ => ?_⟩
  · simpa [hk] using h k (BitVec.lt_of_getLsbD hk)
  · rw [BitVec.getLsbD_and, BitVec.getLsbD_and]
    cases hm : m.getLsbD k with
    | false => simp
    | true => rw [h k hm]

theorem field_eq_iff_bits {W V : Word} {hi lo : Nat} :
    field W hi lo = field V hi lo ↔ ∀ k < hi - lo + 1, W.getLsbD (lo + k) = V.getLsbD (lo + k) := by
  have hextract (U : Word) : field U hi lo = (U.extractLsb' lo (hi - lo + 1)).toNat := by
    rw [field, BitVec.extractLsb'_toNat, Nat.shiftRight_eq_div_pow]
  rw [hextract, hextract, BitVec.toNat_inj, BitVec.eq_of_getLsbD_eq_iff]
  refine forall₂_congr fun k hk => ?_
  simp [hk]

/-- The ones of bits `hi` down to `lo`. -/
def fieldMask (hi lo : Nat) : Word := (BitVec.allOnes (hi - lo + 1)).setWidth 32 <<< lo

theorem fieldMask_getLsbD {hi lo k : Nat} :
    (fieldMask hi lo).getLsbD k = true ↔ k < 32 ∧ lo ≤ k ∧ k < lo + (hi - lo + 1) := by
  simp [fieldMask]
  omega

theorem and_fieldMask_eq_iff {W V : Word} {hi lo : Nat} :
    W &&& fieldMask hi lo = V &&& fieldMask hi lo ↔ field W hi lo = field V hi lo := by
  simp only [and_eq_and_iff_bits, field_eq_iff_bits, fieldMask_getLsbD]
  constructor
  · intro h k hk
    by_cases hlt : lo + k < 32
    · exact h (lo + k) ⟨hlt, by omega, by omega⟩
    · rw [BitVec.getLsbD_of_ge _ _ (by omega), BitVec.getLsbD_of_ge _ _ (by omega)]
  · rintro h k ⟨-, hlo, hk⟩
    simpa [hlo] using h (k - lo) (by omega)

/-- The ones of every field. -/
def maskOf : List BitField → Word
  | [] => 0
  | f :: fs => fieldMask f.hi f.lo ||| maskOf fs

/-- Two words agree under the mask of some fields exactly when they agree in each of them. -/
theorem and_maskOf_eq_iff {W V : Word} {fs : List BitField} :
    W &&& maskOf fs = V &&& maskOf fs ↔ ∀ f ∈ fs, field W f.hi f.lo = field V f.hi f.lo := by
  induction fs with
  | nil => simp [maskOf]
  | cons f fs ih =>
    rw [List.forall_mem_cons, ← ih, ← and_fieldMask_eq_iff]
    simp only [and_eq_and_iff_bits, maskOf, BitVec.getLsbD_or, Bool.or_eq_true, or_imp, forall_and]

/-! ### The row of a command -/

/-- The fields of a command's word that are no operands. -/
def Instr.fixedFields (i : Instr) : List BitField := i.layout.filter (·.isFixed)

/-- The row of the opcode map as the layout of the command gives it. -/
def Instr.row (i : Instr) : OpcodeRow :=
  ⟨i.mnemonic, BitVec.ofNat 32 (layoutNat i.fixedFields), maskOf i.fixedFields⟩

theorem row_mem_opcodeMap (i : Instr) : i.row ∈ opcodeMap := by
  cases i <;>
    simp [opcodeMap, Instr.row, Instr.fixedFields, Instr.layout, Instr.opcode, Instr.mnemonic, layoutNat, maskOf,
      fieldMask]

theorem field_pattern_eq_value (i : Instr) : ∀ f ∈ i.fixedFields, field i.row.pattern f.hi f.lo = f.value := by
  cases i <;> simp [Instr.row, Instr.fixedFields, Instr.layout, Instr.opcode, layoutNat, field]

theorem pattern_and_mask_eq_pattern : ∀ row ∈ opcodeMap, row.pattern &&& row.mask = row.pattern := by
  decide

/-- A word is that of a row (30_encoding R98). -/
def OpcodeRow.Matches (row : OpcodeRow) (W : Word) : Prop := W &&& row.mask = row.pattern

theorem matches_row_iff {i : Instr} {W : Word} :
    i.row.Matches W ↔ ∀ f ∈ i.layout, f.isFixed = true → field W f.hi f.lo = f.value := by
  have hagree : i.row.Matches W ↔ ∀ f ∈ i.fixedFields, field W f.hi f.lo = field i.row.pattern f.hi f.lo := by
    have hpattern := pattern_and_mask_eq_pattern _ (row_mem_opcodeMap i)
    exact (Iff.of_eq (congrArg _ hpattern.symm)).trans and_maskOf_eq_iff
  rw [hagree, forall₂_congr fun f hf => by rw [field_pattern_eq_value i f hf]]
  simp [Instr.fixedFields]

theorem matches_row_of_decode {i : Instr} {W : Word} (h : decode W = .ok i) : i.row.Matches W :=
  matches_row_iff.2 fun f hf _ => decode_eq_ok_iff.1 h f hf

/-- What `W` would be as each of the 20 commands, in the order of the opcode map: the operands are read from the fields
of the format, and the fixed fields are not looked at. -/
def readings (W : Word) : List Instr :=
  [ .nop, .rst, .wrr (field W 26 22) (field W 16 0), .rdr (field W 26 22),
    .stb (field W 24 8) (byteField W 0), .ldb (field W 24 8), .stk (field W 24 8) (byteField W 0),
    .rol (byteField W 8) (field W 7 0), .rolr (field W 7 0), .ror (byteField W 8) (field W 7 0), .rorr (field W 7 0),
    .crci, .crcb (byteField W 0), .crcr, .einit, .dinit (BitVec.ofNat 1 (field W 8 8)) (byteField W 0),
    .estep, .dstep, .ewalk, .dwalk ]

theorem map_row_readings (W : Word) : (readings W).map Instr.row = opcodeMap := by
  simp [readings, opcodeMap, Instr.row, Instr.fixedFields, Instr.layout, Instr.opcode, Instr.mnemonic, layoutNat, maskOf,
    fieldMask]

theorem operands_of_reading {W : Word} :
    ∀ i ∈ readings W, ∀ f ∈ i.layout, f.isFixed = false → field W f.hi f.lo = f.value := by
  simp [readings, Instr.layout]

theorem decode_reading {W : Word} {i : Instr} (hi : i ∈ readings W) (h : i.row.Matches W) : decode W = .ok i := by
  refine decode_eq_ok_iff.2 fun f hf => ?_
  cases hfixed : f.isFixed with
  | true => exact matches_row_iff.1 h f hf hfixed
  | false => exact operands_of_reading i hi f hf hfixed

/-- The word of a row decodes, to a command with that row. -/
theorem exists_decode_of_matches {row : OpcodeRow} (hrow : row ∈ opcodeMap) {W : Word} (h : row.Matches W) :
    ∃ i, decode W = .ok i ∧ i.row = row := by
  rw [← map_row_readings W, List.mem_map] at hrow
  obtain ⟨i, hi, rfl⟩ := hrow
  exact ⟨i, decode_reading hi h, rfl⟩

theorem matches_unique {a b : OpcodeRow} (ha : a ∈ opcodeMap) (hb : b ∈ opcodeMap) {W : Word} (hWa : a.Matches W)
    (hWb : b.Matches W) : a = b := by
  obtain ⟨i, hi, rfl⟩ := exists_decode_of_matches ha hWa
  obtain ⟨j, hj, rfl⟩ := exists_decode_of_matches hb hWb
  cases hi.symm.trans hj
  rfl

theorem opcodeMap_mnemonics_nodup : (opcodeMap.map (·.mnemonic)).Nodup := by
  decide

/-- The mnemonic of a command says which row it has. -/
theorem row_eq_of_mnemonic {i : Instr} {row : OpcodeRow} (hrow : row ∈ opcodeMap) (h : i.mnemonic = row.mnemonic) :
    i.row = row :=
  List.inj_on_of_nodup_map opcodeMap_mnemonics_nodup (row_mem_opcodeMap i) hrow h

/-! ### Words that are no command -/

theorem execWord_of_error_normal {w : Word} {s : State} {e : Reject} (hs : s.Normal) (h : decode w = .error e) :
    execWord w s = .next { s with err := (rejectCode e).code } := by
  rw [execWord_of_error h, State.raise_normal hs]

theorem execWord_of_no_match {w : Word} {s : State} (hs : s.Normal) (h : ∀ row ∈ opcodeMap, ¬ row.Matches w) :
    execWord w s = .next { s with err := 1 } ∨ execWord w s = .next { s with err := 2 } := by
  cases hw : decode w with
  | ok i => exact absurd (matches_row_of_decode hw) (h _ (row_mem_opcodeMap i))
  | error e =>
    rw [execWord_of_error_normal hs hw]
    cases e with
    | undefinedOpcode => exact .inl rfl
    | reservedField => exact .inr rfl

/-- Settles O6: a word of a row decodes to its own reading of that row. -/
theorem opcodeMapSelectsTheCommand : Obligations.OpcodeMapSelectsTheCommand := by
  refine ⟨fun row hrow w => ⟨fun h => ?_, ?_⟩, ?_, fun w s hs h => execWord_of_no_match hs h⟩
  · obtain ⟨i, hi, rfl⟩ := exists_decode_of_matches hrow h
    exact ⟨i, hi, rfl⟩
  · rintro ⟨i, hi, hname⟩
    exact row_eq_of_mnemonic hrow hname ▸ matches_row_of_decode hi
  · have hnodup : opcodeMap.Nodup := opcodeMap_mnemonics_nodup.of_map _
    refine hnodup.pairwise_of_forall_ne fun a ha b hb hne w hw => ?_
    exact hne (matches_unique ha hb hw.1 hw.2)

theorem requireZero_ne_undefinedOpcode (zero : Bool) (i : Instr) : requireZero zero i ≠ .error .undefinedOpcode := by
  cases zero <;> simp [requireZero]

theorem decodeT_ne_undefinedOpcode (W : Word) (imm : Byte → Nat → Instr) (reg : Nat → Instr) :
    decodeT W imm reg ≠ .error .undefinedOpcode := by
  unfold decodeT
  split <;> exact requireZero_ne_undefinedOpcode _ _

/-- The opcodes that select no command (30_encoding R100). -/
theorem decode_eq_undefinedOpcode_iff {W : Word} :
    decode W = .error .undefinedOpcode ↔ field W 31 27 ∈ [0x07, 0x0D, 0x0E, 0x0F] ∨ 0x16 ≤ field W 31 27 := by
  have hlt : field W 31 27 < 32 := Nat.mod_lt _ (by decide)
  unfold decode
  split
  case h_19 =>
    simp only [imp_false] at *
    simp only [List.mem_cons, List.not_mem_nil, or_false, true_iff]
    omega
  all_goals simp [decodeN, requireZero_ne_undefinedOpcode, decodeT_ne_undefinedOpcode, *]

/-- Settles O7: the undefined opcodes are those that no arm of the decoder names, and a word that matches no row of the
map is no command. -/
theorem undefinedOpcodesFault : Obligations.UndefinedOpcodesFault := by
  constructor
  · intro w s hs hop
    rw [extract_toNat_eq_field] at hop
    exact execWord_of_error_normal hs (decode_eq_undefinedOpcode_iff.2 hop)
  · intro w s hs
    by_cases h : ∃ row, row ∈ opcodeMap ∧ row.Matches w
    · obtain ⟨row, hrow, hw⟩ := h
      exact .inl ⟨row, ⟨hrow, hw⟩, fun other ho => matches_unique ho.1 hrow ho.2 hw⟩
    · exact .inr ⟨h, execWord_of_no_match hs fun row hrow hw => h ⟨row, hrow, hw⟩⟩

/-! ### Reserved fields -/

/-- The reserved fields (30_encoding R101) with the opcodes whose words have them, but for the rotates' unused value. -/
def reservedFields : List (List Nat × BitField) :=
  [ ([0x00, 0x01, 0x0A, 0x0C, 0x10, 0x12, 0x13, 0x14, 0x15], fixedField 26 0 0),
    ([0x0B], fixedField 26 8 0),
    ([0x02, 0x03], fixedField 21 17 0),
    ([0x03], fixedField 16 0 0),
    ([0x04, 0x05, 0x06], fixedField 26 25 0),
    ([0x05], fixedField 7 0 0),
    ([0x08, 0x09], fixedField 26 17 0),
    ([0x11], fixedField 26 9 0) ]

theorem reserved_mem_layout (i : Instr) : ∀ p ∈ reservedFields, i.opcode ∈ p.1 → p.2 ∈ i.layout := by
  cases i <;> simp [reservedFields, Instr.layout, Instr.opcode]

/-- A rotate takes the immediate value, or has it at 0 (30_encoding R95). -/
theorem rotate_layout (i : Instr) (h : i.opcode ∈ [0x08, 0x09]) :
    fixedField 16 16 0 ∈ i.layout ∨ fixedField 15 8 0 ∈ i.layout := by
  cases i <;> simp [Instr.layout, Instr.opcode] at h ⊢

/-- The word has a bit set that R101 wants 0. -/
def ReservedSet (W : Word) : Prop :=
  (∃ p ∈ reservedFields, field W 31 27 ∈ p.1 ∧ field W p.2.hi p.2.lo ≠ p.2.value) ∨
    (field W 31 27 ∈ [0x08, 0x09] ∧ field W 16 16 = 1 ∧ field W 15 8 ≠ 0)

theorem ReservedSet.decode_ne_ok {W : Word} (h : ReservedSet W) (i : Instr) : decode W ≠ .ok i := by
  intro hok
  have hfields := decode_eq_ok_iff.1 hok
  have hop : field W 31 27 = i.opcode := hfields (fixedField 31 27 i.opcode) (by simp [Instr.layout])
  rw [ReservedSet, hop] at h
  rcases h with ⟨p, hp, hmem, hset⟩ | ⟨hmem, hsource, hset⟩
  · exact hset (hfields p.2 (reserved_mem_layout i p hp hmem))
  · rcases rotate_layout i hmem with hl | hl
    · exact absurd (hsource.symm.trans (hfields _ hl)) one_ne_zero
    · exact hset (hfields _ hl)

theorem ReservedSet.decode_ne_undefinedOpcode {W : Word} (h : ReservedSet W) : decode W ≠ .error .undefinedOpcode := by
  rw [ne_eq, decode_eq_undefinedOpcode_iff]
  rcases h with ⟨p, hp, hmem, -⟩ | ⟨hmem, -⟩
  · have hdefined : ∀ p ∈ reservedFields, ∀ op ∈ p.1, ¬ (op ∈ [0x07, 0x0D, 0x0E, 0x0F] ∨ 0x16 ≤ op) := by decide
    exact hdefined p hp _ hmem
  · have hdefined : ∀ op ∈ [0x08, 0x09], ¬ (op ∈ [0x07, 0x0D, 0x0E, 0x0F] ∨ 0x16 ≤ op) := by decide
    exact hdefined _ hmem

theorem ReservedSet.decode_eq {W : Word} (h : ReservedSet W) : decode W = .error .reservedField := by
  cases hW : decode W with
  | ok i => exact absurd hW (h.decode_ne_ok i)
  | error e =>
    cases e with
    | undefinedOpcode => exact absurd hW h.decode_ne_undefinedOpcode
    | reservedField => rfl

/-- Settles O8: each case sets a reserved field of its opcode, or the unused value of a rotate. -/
theorem reservedFieldsFault : Obligations.ReservedFieldsFault := by
  intro w s hs op hcases
  have hop : op = field w 31 27 := extract_toNat_eq_field w 27 4
  have hset : ReservedSet w := by
    simp only [hop, ne_eq, extract_eq_iff_field] at hcases
    simp [ReservedSet, reservedFields] at hcases ⊢
    grind
  exact execWord_of_error_normal hs hset.decode_eq

end Sys2Proof
end

section
/-! The CRC of a stream of bytes: `CRCS` runs the byte step once for each byte, as `CRCR` does over the body, and a CRC is
even from its seed on, because every bit step shifts a 0 in and the feedback pattern is even (41_crc R136). -/

namespace Sys2Proof.Machine

theorem crcBit_even (reg : Half) (b : Bool) : (crcBit reg b).getLsbD 0 = false := by
  unfold crcBit
  split <;> simp [crcFeedback]

/-- The last bit step of a byte leaves the CRC even. -/
theorem crcByte_even (reg : Half) (d : Byte) : (crcByte reg d).getLsbD 0 = false :=
  crcBit_even _ (d.getLsbD 0)

theorem crcSeq_even (bytes : List Byte) : (crcSeq bytes).getLsbD 0 = false := by
  rw [crcSeq]
  induction bytes using List.reverseRecOn with
  | nil => rfl
  | append_singleton bytes d _ =>
    rw [List.foldl_append, List.foldl_cons, List.foldl_nil]
    exact crcByte_even _ d

/-! ### The CRC commands in the normal state -/

theorem exec_crci_normal {s : State} (hs : s.Normal) : exec .crci s = .next (s.setCrc crcSeed) :=
  State.unlessFaulted_normal hs _

theorem exec_crcb_normal {s : State} (hs : s.Normal) (d : Byte) :
    exec (.crcb d) s = .next (s.setCrc (crcByte s.crc d)) :=
  State.unlessFaulted_normal hs _

theorem exec_crcr_normal {s : State} (hs : s.Normal) (hln8 : s.ln8.toNat ≤ s.cfg.bufSize) :
    exec .crcr s = .next (s.setCrc (crcSeq s.body)) :=
  (State.unlessFaulted_normal hs _).trans (if_neg (Nat.not_lt.2 hln8))

theorem runInstrs_crcb {s : State} (hs : s.Normal) (bytes : List Byte) :
    runInstrs (bytes.map .crcb) s = .next (s.setCrc (bytes.foldl crcByte s.crc)) := by
  induction bytes generalizing s with
  | nil => rfl
  | cons d bytes ih =>
    rw [List.map_cons, runInstrs, exec_crcb_normal hs, andThen_next, ih (s := s.setCrc (crcByte s.crc d)) hs]
    rfl

/-- `CRCS` leaves the CRC of its bytes (30_encoding R105). -/
theorem runInstrs_crcs {s : State} (hs : s.Normal) (bytes : List Byte) :
    runInstrs (crcs bytes) s = .next (s.setCrc (crcSeq bytes)) := by
  rw [crcs, runInstrs, exec_crci_normal hs, andThen_next, runInstrs_crcb (s := s.setCrc crcSeed) hs]
  rfl

/-- Settles O39: the stream and the body give one fold of the byte step from the seed. -/
theorem streamedCrcIsTheCrcOfTheBody : Obligations.StreamedCrcIsTheCrcOfTheBody := by
  intro s hs ⟨_, _, hln8⟩
  have hcrcr := exec_crcr_normal hs hln8
  refine ⟨(runInstrs_crcs hs s.body).trans hcrcr.symm, fun t ht => ?_, fun d t ht => ?_⟩
  · cases hcrcr.symm.trans ht
    exact crcSeq_even s.body
  · cases (exec_crcb_normal hs d).symm.trans ht
    exact crcByte_even s.crc d

end Sys2Proof.Machine
end

section
/-! The rotation unit. Left rotations form one family, closed under composition with amounts added modulo 8, and a right
rotation is the left rotation by the complement: the rotation laws are arithmetic of amounts, and what a rotation keeps
is shown bit by bit (40_rotate R120 to R126). -/

namespace Sys2Proof.Machine

/-! ### The rotation functions on bits and on numbers -/

theorem rotl8_eq_self {n : Nat} (hn : n % 8 = 0) (v : Byte) : rotl8 v n = v := if_pos hn

theorem rotr8_eq_self {n : Nat} (hn : n % 8 = 0) (v : Byte) : rotr8 v n = v := if_pos hn

/-- For the amount 0 the library's formula also shifts by 8, which leaves no bit. -/
theorem rotl8_eq_rotateLeft (v : Byte) (n : Nat) : rotl8 v n = v.rotateLeft n := by
  by_cases hn : n % 8 = 0
  · have hzero : v >>> 8 = 0 := BitVec.ushiftRight_eq_zero (le_refl 8)
    simp [rotl8_eq_self hn, BitVec.rotateLeft_def, hn, hzero]
  · exact (if_neg hn).trans BitVec.rotateLeft_def.symm

theorem rotr8_eq_rotateRight (v : Byte) (n : Nat) : rotr8 v n = v.rotateRight n := by
  by_cases hn : n % 8 = 0
  · have hzero : v <<< 8 = 0 := BitVec.shiftLeft_eq_zero (le_refl 8)
    simp [rotr8_eq_self hn, BitVec.rotateRight_def, hn, hzero]
  · exact (if_neg hn).trans BitVec.rotateRight_def.symm

/-- Position `i` of a left rotation takes the bit that stands `n` places below it, round the end. -/
theorem rotl8_getLsbD (v : Byte) (n : Nat) {i : Nat} (hi : i < 8) :
    (rotl8 v n).getLsbD i = v.getLsbD ((i + (8 - n % 8)) % 8) := by
  rw [rotl8_eq_rotateLeft, BitVec.getLsbD_rotateLeft, decide_eq_true hi, Bool.true_and, Bool.cond_decide]
  split <;> (congr 1; omega)

/-- Position `i` of a right rotation takes the bit that stands `n` places above it, round the end. -/
theorem rotr8_getLsbD (v : Byte) (n : Nat) {i : Nat} (hi : i < 8) :
    (rotr8 v n).getLsbD i = v.getLsbD ((i + n % 8) % 8) := by
  rw [rotr8_eq_rotateRight, BitVec.getLsbD_rotateRight, decide_eq_true hi, Bool.true_and, Bool.cond_decide]
  split <;> (congr 1; omega)

/-- Only the left shift can leave the byte, so reducing the whole modulo 256 reduces it alone. -/
theorem rotl8_toNat (v : Byte) (n : Nat) :
    (rotl8 v n).toNat = (v.toNat <<< (n % 8) ||| v.toNat >>> (8 - n % 8)) % 256 := by
  have hright : v.toNat >>> (8 - n % 8) < 2 ^ 8 := (Nat.shiftRight_le _ _).trans_lt v.isLt
  change _ = _ % 2 ^ 8
  rw [rotl8_eq_rotateLeft, BitVec.toNat_rotateLeft, Nat.or_mod_two_pow, Nat.mod_eq_of_lt hright]

theorem rotr8_toNat (v : Byte) (n : Nat) :
    (rotr8 v n).toNat = (v.toNat >>> (n % 8) ||| v.toNat <<< (8 - n % 8)) % 256 := by
  have hright : v.toNat >>> (n % 8) < 2 ^ 8 := (Nat.shiftRight_le _ _).trans_lt v.isLt
  change _ = _ % 2 ^ 8
  rw [rotr8_eq_rotateRight, BitVec.toNat_rotateRight, Nat.or_mod_two_pow, Nat.mod_eq_of_lt hright]

/-- Settles O34: the place a bit of `v` goes to under `rotl8` is the place that takes it. -/
theorem rotationsMoveEveryBit : Obligations.RotationsMoveEveryBit := by
  intro v n
  refine ⟨fun i hi => ?_, fun i hi => rotr8_getLsbD v n hi, fun hn => ⟨rotl8_eq_self hn v, rotr8_eq_self hn v⟩,
    fun _ => ⟨rotl8_toNat v n, rotr8_toNat v n⟩⟩
  rw [rotl8_getLsbD v n (Nat.mod_lt _ (by decide))]
  congr 1
  omega

/-! ### Amounts -/

/-- R126 (a). -/
theorem rotl8_congr {m n : Nat} (h : m % 8 = n % 8) (v : Byte) : rotl8 v m = rotl8 v n := by
  rw [rotl8, rotl8, h]

/-- R126 (b): a right rotation is the left rotation by the complement. -/
theorem rotr8_eq_rotl8 (v : Byte) (n : Nat) : rotr8 v n = rotl8 v ((8 - n % 8) % 8) := by
  refine BitVec.eq_of_getLsbD_eq fun i hi => ?_
  rw [rotr8_getLsbD v n hi, rotl8_getLsbD v _ hi]
  congr 1
  omega

/-- R126 (d): amounts add. -/
theorem rotl8_rotl8 (v : Byte) (m n : Nat) : rotl8 (rotl8 v m) n = rotl8 v (m + n) := by
  refine BitVec.eq_of_getLsbD_eq fun i hi => ?_
  rw [rotl8_getLsbD _ n hi, rotl8_getLsbD v m (Nat.mod_lt _ (by decide)), rotl8_getLsbD v _ hi]
  congr 1
  omega

/-- R126 (e): left, then right, is left by the difference. -/
theorem rotr8_rotl8 (v : Byte) (m n : Nat) : rotr8 (rotl8 v m) n = rotl8 v ((m % 8 + (8 - n % 8)) % 8) := by
  rw [rotr8_eq_rotl8, rotl8_rotl8]
  exact rotl8_congr (by omega) v

theorem rotl8_rotr8 (v : Byte) (m n : Nat) : rotl8 (rotr8 v m) n = rotr8 (rotl8 v n) m := by
  rw [rotr8_eq_rotl8, rotr8_eq_rotl8, rotl8_rotl8, rotl8_rotl8, Nat.add_comm]

theorem rotr8_rotl8_cancel (v : Byte) (n : Nat) : rotr8 (rotl8 v n) n = v :=
  (rotr8_rotl8 v n n).trans (rotl8_eq_self (by omega) v)

theorem rotl8_comm (v : Byte) (m n : Nat) : rotl8 (rotl8 v m) n = rotl8 (rotl8 v n) m := by
  rw [rotl8_rotl8, rotl8_rotl8, Nat.add_comm]

theorem rotr8_comm (v : Byte) (m n : Nat) : rotr8 (rotr8 v m) n = rotr8 (rotr8 v n) m := by
  simp only [rotr8_eq_rotl8]
  exact rotl8_comm v _ _

/-! ### What a rotation keeps -/

/-- Going `c` places round visits each of the 8 bit positions once. -/
theorem map_add_mod_perm_range (c : Nat) : ((List.range 8).map fun i => (i + c) % 8).Perm (List.range 8) := by
  have hnodup : ((List.range 8).map fun i => (i + c) % 8).Nodup :=
    List.nodup_range.map_on fun i hi j hj h => by
      rw [List.mem_range] at hi hj
      omega
  have hsubset : ((List.range 8).map fun i => (i + c) % 8) ⊆ List.range 8 :=
    List.forall_mem_map.2 fun i _ => List.mem_range.2 (Nat.mod_lt _ (by decide))
  exact (hnodup.subperm hsubset).perm_of_length_le (by simp)

/-- R126 (f). -/
theorem popcount_rotl8 (v : Byte) (n : Nat) : popcount (rotl8 v n) = popcount v := by
  calc popcount (rotl8 v n)
      = (List.range 8).countP (v.getLsbD ∘ fun i => (i + (8 - n % 8)) % 8) :=
        List.countP_congr fun i hi => by rw [rotl8_getLsbD v n (List.mem_range.1 hi), Function.comp_apply]
    _ = popcount v := List.countP_map.symm.trans ((map_add_mod_perm_range _).countP_eq _)

theorem rotl8_of_constant_bits {v : Byte} {b : Bool} (hv : ∀ i < 8, v.getLsbD i = b) (n : Nat) : rotl8 v n = v := by
  refine BitVec.eq_of_getLsbD_eq fun i hi => ?_
  rw [rotl8_getLsbD v n hi, hv i hi, hv _ (Nat.mod_lt _ (by decide))]

theorem rotl8_zero (n : Nat) : rotl8 0x00 n = 0x00 := rotl8_of_constant_bits (b := false) (by decide) n

theorem rotl8_allOnes (n : Nat) : rotl8 0xFF n = 0xFF := rotl8_of_constant_bits (b := true) (by decide) n

/-- R126 (g). -/
theorem rotl8_xor (u v : Byte) (n : Nat) : rotl8 (u ^^^ v) n = rotl8 u n ^^^ rotl8 v n := by
  refine BitVec.eq_of_getLsbD_eq fun i hi => ?_
  rw [BitVec.getLsbD_xor, rotl8_getLsbD _ n hi, rotl8_getLsbD u n hi, rotl8_getLsbD v n hi, BitVec.getLsbD_xor]

/-- Settles O35: a law of `rotr8` is the law of `rotl8` at the complement. -/
theorem rotationLaws : Obligations.RotationLaws := by
  intro u v m n
  refine ⟨⟨rotl8_congr (Nat.mod_mod n 8).symm v, ?_⟩, rotr8_eq_rotl8 v n, ⟨rotr8_rotl8_cancel v n, ?_⟩,
    ⟨rotl8_rotl8 v m n, rotl8_rotr8 v m n, rotl8_comm v m n, rotr8_comm v m n⟩, rotr8_rotl8 v m n,
    ⟨popcount_rotl8 v n, ?_, rotl8_zero n, ?_, rotl8_allOnes n, ?_⟩, rotl8_xor u v n, ?_⟩
  · rw [rotr8_eq_rotl8, rotr8_eq_rotl8, Nat.mod_mod]
  · rw [rotl8_rotr8, rotr8_rotl8_cancel]
  · rw [rotr8_eq_rotl8, popcount_rotl8]
  · rw [rotr8_eq_rotl8, rotl8_zero]
  · rw [rotr8_eq_rotl8, rotl8_allOnes]
  · simp only [rotr8_eq_rotl8, rotl8_xor]

/-! ### The four rotates -/

/-- Settles O33: the fault state ignores a rotate, and the normal state runs its write of `ROT`. -/
theorem rotatesWriteRotOnly : Obligations.RotatesWriteRotOnly := by
  intro s v n
  refine ⟨fun h0 => ?_, fun h0 i hi => ?_⟩
  · have normal := State.unlessFaulted_normal h0
    exact ⟨normal _, normal _, normal _, normal _⟩
  · have ignored := State.unlessFaulted_faulted h0
    simp only [List.mem_cons, List.not_mem_nil, or_false] at hi
    rcases hi with rfl | rfl | rfl | rfl <;> exact ignored _

end Sys2Proof.Machine
end

section
/-! The CRC generator: the bit step adds a shift and a feedback pattern over GF(2), so its bits, its number and its linearity
come from one equation (`crcBit_eq_xor`); and which steps can change `CRC`, and to what (41_crc R130 to R137). -/

namespace Sys2Proof.Machine

/-! ### The bit step: a shift and a feedback, added -/

/-- What the bit step adds to the shifted register: the feedback pattern, where the feedback bit is set (41_crc R130). -/
def feedbackMask (fb : Bool) : Half := if fb then crcFeedback else 0

theorem crcBit_eq_xor (reg : Half) (b : Bool) : crcBit reg b = (reg <<< 1) ^^^ feedbackMask (reg.getLsbD 15 ^^ b) := by
  unfold crcBit feedbackMask
  split
  · rfl
  · exact BitVec.xor_zero.symm

/-- The pattern `0xAAAA` has its odd bits set. -/
theorem feedbackMask_getLsbD (fb : Bool) {i : Nat} (hi : i < 16) :
    (feedbackMask fb).getLsbD i = (decide (i % 2 = 1) && fb) := by
  revert fb i
  decide

theorem feedbackMask_xor (x y : Bool) : feedbackMask (x ^^ y) = feedbackMask x ^^^ feedbackMask y := by
  revert x y
  decide

/-- The bits above bit 0, which the shift fills from below (41_crc R130). -/
theorem crcBit_getLsbD (reg : Half) (b : Bool) {i : Nat} (h1 : 1 ≤ i) (h15 : i ≤ 15) :
    (crcBit reg b).getLsbD i =
      if i % 2 = 1 then (reg.getLsbD (i - 1) ^^ (reg.getLsbD 15 ^^ b)) else reg.getLsbD (i - 1) := by
  have hshift : (reg <<< 1).getLsbD i = reg.getLsbD (i - 1) := by
    rw [BitVec.getLsbD_shiftLeft, decide_eq_true (show i < 16 by omega), decide_eq_false (show ¬ i < 1 by omega)]
    rfl
  rw [crcBit_eq_xor, BitVec.getLsbD_xor, hshift, feedbackMask_getLsbD _ (by omega)]
  split <;> simp [*]

theorem crcBit_toNat (reg : Half) (b : Bool) :
    (crcBit reg b).toNat =
      if (reg.getLsbD 15 ^^ b) = true then (reg.toNat * 2 % 65536) ^^^ 0xAAAA else reg.toNat * 2 % 65536 := by
  have hshift : (reg <<< 1).toNat = reg.toNat * 2 % 65536 := by rw [BitVec.toNat_shiftLeft, Nat.shiftLeft_eq]
  unfold crcBit
  split
  · rw [BitVec.toNat_xor, hshift]; rfl
  · exact hshift

/-- Settles O37: the byte step and the sequence are folds of the bit step by definition. -/
theorem crcFunctionsFollowTheBitLoop : Obligations.CrcFunctionsFollowTheBitLoop :=
  ⟨fun reg b => ⟨crcBit_even reg b, fun _ => crcBit_getLsbD reg b, crcBit_toNat reg b⟩, fun _ _ => rfl, rfl,
    fun _ _ => List.foldl_append⟩

/-! ### Linearity -/

theorem crcBit_xor (r r' : Half) (b b' : Bool) : crcBit (r ^^^ r') (b ^^ b') = crcBit r b ^^^ crcBit r' b' := by
  have hfb : ((r ^^^ r').getLsbD 15 ^^ (b ^^ b')) = ((r.getLsbD 15 ^^ b) ^^ (r'.getLsbD 15 ^^ b')) := by
    simp only [BitVec.getLsbD_xor, Bool.xor_assoc, Bool.xor_left_comm]
  simp only [crcBit_eq_xor]
  rw [hfb, feedbackMask_xor, BitVec.shiftLeft_xor_distrib]
  ac_rfl

theorem crcByte_xor (r r' : Half) (d d' : Byte) : crcByte (r ^^^ r') (d ^^^ d') = crcByte r d ^^^ crcByte r' d' :=
  List.foldl_hom₂ _ (· ^^^ ·) _ _ _ r r' fun q q' i => by rw [BitVec.getLsbD_xor, crcBit_xor]

theorem foldl_crcByte_xor {a b : List Byte} (h : a.length = b.length) (r r' : Half) :
    a.foldl crcByte r ^^^ b.foldl crcByte r' = (a.zipWith (· ^^^ ·) b).foldl crcByte (r ^^^ r') := by
  induction a generalizing b r r' with
  | nil =>
    obtain rfl := List.length_eq_zero_iff.1 h.symm
    rfl
  | cons x a ih =>
    cases b with
    | nil => cases h
    | cons y b =>
      rw [List.foldl_cons, List.foldl_cons, List.zipWith_cons_cons, List.foldl_cons, crcByte_xor]
      exact ih (Nat.succ.inj h) _ _

/-- The two seeds cancel, so only the bytewise XOR is left. -/
theorem crcSeq_xor {a b : List Byte} (h : a.length = b.length) :
    crcSeq a ^^^ crcSeq b = (a.zipWith (· ^^^ ·) b).foldl crcByte 0 :=
  foldl_crcByte_xor h crcSeed crcSeed

/-- Settles O38: the XOR of two CRCs is a function of the bytewise XOR. -/
theorem crcIsLinear : Obligations.CrcIsLinear :=
  ⟨crcBit_xor, fun _ _ _ _ hab hcd hxor => by rw [crcSeq_xor hab, crcSeq_xor hcd, hxor]⟩

/-! ### What the CRC commands change, and what changes `CRC` -/

/-- Settles O36. -/
theorem crcCommandsWriteCrcOnly : Obligations.CrcCommandsWriteCrcOnly :=
  fun _ d hs => ⟨exec_crci_normal hs, exec_crcb_normal hs d, exec_crcr_normal hs⟩

/-- The CRC unit's commands: `CRCI`, `CRCB`, `CRCR`. -/
abbrev CrcCommand (i : Instr) : Prop := i = .crci ∨ (∃ d, i = .crcb d) ∨ i = .crcr

theorem CrcCommand.not_faults {i : Instr} (hi : CrcCommand i) (s : State) (c : FaultCode) : ¬ Faults s i c := by
  rcases hi with rfl | ⟨d, rfl⟩ | rfl <;> rintro ⟨⟩

theorem Effect.of_crcCommand {i : Instr} {s t : State} (h : Effect s i t) (hi : CrcCommand i) :
    t = { s with crc := t.crc } := by
  cases h with
  | ignored | crci | crcb | crcr => rfl
  | faulted _ c _ hc => exact absurd hc (hi.not_faults s c)
  | _ => simp [CrcCommand] at hi

/-- Settles O40: the second half is the clause for `CRC` among the writers of each register. -/
theorem onlyTheCrcUnitWrrAndResetWriteCrc : Obligations.OnlyTheCrcUnitWrrAndResetWriteCrc := by
  refine ⟨fun s t i hi h => (exec_effect h).of_crcCommand hi, fun s t i h hne => ?_⟩
  obtain ⟨hcrc, -⟩ := onlyNamedCommandsWriteEachRegister s t i h
  have hwriter := hcrc hne
  simp only [List.mem_cons, List.not_mem_nil, or_false] at hwriter
  tauto

/-! ### `CRC` stays even -/

theorem crcSeed_even : crcSeed.getLsbD 0 = false := crcSeq_even []

theorem ofNat_getLsbD_zero {v : Nat} (hv : v % 2 = 0) : (BitVec.ofNat 16 v).getLsbD 0 = false := by
  rw [BitVec.getLsbD_ofNat, Nat.testBit_zero, hv]
  rfl

theorem Effect.crc_even {i : Instr} {s t : State} (h : Effect s i t) (hs : s.crc.getLsbD 0 = false)
    (hwrr : ∀ v, i = .wrr 0 v → v % 2 = 0) : t.crc.getLsbD 0 = false := by
  cases h with
  | rst | crci => exact crcSeed_even
  | crcb d => exact crcByte_even s.crc d
  | crcr => exact crcSeq_even s.body
  | wrr r v g _ hg =>
    rw [State.writeReg_crc]
    split
    · next hcrc =>
      rw [regOfNumber_eq_some, hcrc] at hg
      exact ofNat_getLsbD_zero (hwrr v (by rw [hg]; rfl))
    · exact hs
  | ewalk => rwa [(repeatStep_same encodeStep_same _ s).crc]
  | dwalk => rwa [(repeatStep_same decodeStep_same _ s).crc]
  | _ => exact hs

/-- Settles O19, by the next transaction: a word that is no command leaves `CRC` alone, and reset loads `0xAAAA`. -/
theorem crcStaysEven : Obligations.CrcStaysEven := by
  intro s t hs h hwrr
  rcases step_next h with ⟨-, rfl⟩ | ⟨w, rest, hin, hw⟩ | ⟨rest, -, rfl⟩
  · exact hs
  · rcases execWord_next hw with ⟨i, hdecode, hexec⟩ | ⟨e, -, rfl⟩
    · refine (exec_effect hexec).crc_even hs ?_
      rintro v rfl
      exact hwrr w rest v hin hdecode
    · rwa [State.raise_crc]
  · exact crcSeed_even

end Sys2Proof.Machine
end

section
/-! The derived parameters: the three functions of a CRC value as arithmetic on its number, the parity of a bit vector, and
the walk's initial state as `EINIT` and `DINIT` load it. `DINIT`'s position is one decode advance from `iv_of(CRC)`, which is
where `LN8 - 1` encode advances end, since `LN8` of them return to their start (42_params R145 to R152). -/

namespace Sys2Proof.Machine

/-! ### Fields of a CRC value -/

theorem nibble_eq (c : Half) (lo : Nat) : nibble c lo = c.toNat / 2 ^ lo % 16 := by
  rw [nibble, BitVec.extractLsb'_toNat, Nat.shiftRight_eq_div_pow]

theorem hi8_toNat (c : Half) : (hi8 c).toNat = c.toNat / 256 := by
  rw [hi8, BitVec.extractLsb'_toNat, Nat.shiftRight_eq_div_pow]
  have := c.isLt
  omega

theorem lo8_toNat (c : Half) : (lo8 c).toNat = c.toNat % 256 := by
  rw [lo8, BitVec.extractLsb'_toNat, Nat.shiftRight_zero]

/-- R145. -/
theorem ivOf_toNat (c : Half) :
    (ivOf c).toNat = (c.toNat / 4096 % 16 + c.toNat / 256 % 16 + c.toNat / 16 % 16 + c.toNat % 16) % 8 := by
  rw [ivOf, BitVec.toNat_ofNat]
  simp only [nibble_eq]
  omega

/-- R147. -/
theorem xor0Of_toNat (c : Half) : (xor0Of c).toNat = 0xAA ^^^ (c.toNat / 256) ^^^ (c.toNat % 256) := by
  rw [xor0Of, BitVec.toNat_xor, BitVec.toNat_xor, hi8_toNat, lo8_toNat]
  rfl

/-! ### Parity -/

/-- R146. -/
theorem pwrdOf_toNat (c : Half) : (pwrdOf c).toNat = popcount c % 2 := by
  rw [pwrdOf, BitVec.toNat_ofNat]
  omega

theorem pwrdOf_eq_one_iff (c : Half) : pwrdOf c = 1 ↔ popcount c % 2 = 1 := by
  rw [← BitVec.toNat_inj, pwrdOf_toNat]
  rfl

theorem sum_map_toNat_eq_countP (f : Nat → Bool) (l : List Nat) : (l.map fun i => (f i).toNat).sum = l.countP f := by
  induction l with
  | nil => rfl
  | cons i l ih =>
    rw [List.map_cons, List.sum_cons, List.countP_cons, ih]
    cases f i <;> simp [Nat.add_comm]

/-- The XOR of all bits is set if the number of set bits is odd. -/
theorem foldl_xor_iff_countP_odd (f : Nat → Bool) (l : List Nat) :
    l.foldl (fun p i => p ^^ f i) false = true ↔ l.countP f % 2 = 1 := by
  induction l using List.reverseRecOn with
  | nil => simp
  | append_singleton l i ih =>
    rw [List.foldl_append, List.foldl_cons, List.foldl_nil, List.countP_append, List.countP_singleton]
    cases f i
    · simpa using ih
    · simp [← Bool.not_eq_true, ih]
      omega

/-- Where both vectors have a 1 bit, the XOR loses two from the sum of the counts. -/
theorem countP_xor_mod_two (f g : Nat → Bool) (l : List Nat) :
    l.countP (fun i => f i ^^ g i) % 2 = (l.countP f + l.countP g) % 2 := by
  induction l with
  | nil => rfl
  | cons i l ih =>
    simp only [List.countP_cons]
    cases f i <;> cases g i <;> simp <;> omega

theorem popcount_xor_mod_two {w : Nat} (u v : BitVec w) :
    popcount (u ^^^ v) % 2 = (popcount u + popcount v) % 2 := by
  have hbits : (u ^^^ v).getLsbD = fun i => u.getLsbD i ^^ v.getLsbD i := funext fun _ => BitVec.getLsbD_xor
  rw [popcount, hbits]
  exact countP_xor_mod_two _ _ _

theorem popcount_eq_hi8_add_lo8 (c : Half) : popcount c = popcount (hi8 c) + popcount (lo8 c) := by
  have hlow : (List.range 8).countP (lo8 c).getLsbD = (List.range 8).countP c.getLsbD :=
    List.countP_congr fun i hi => by simp [lo8, List.mem_range.1 hi]
  have hhigh : (List.range 8).countP (hi8 c).getLsbD = (List.range 8).countP (c.getLsbD ∘ (8 + ·)) :=
    List.countP_congr fun i hi => by simp [hi8, List.mem_range.1 hi]
  calc popcount c
      = (List.range 8 ++ (List.range 8).map (8 + ·)).countP c.getLsbD := by rw [← List.range_add]; rfl
    _ = popcount (lo8 c) + popcount (hi8 c) := by
        rw [List.countP_append, List.countP_map, ← hlow, ← hhigh]; rfl
    _ = popcount (hi8 c) + popcount (lo8 c) := Nat.add_comm _ _

/-- Settles O41: the top bit of a nibble counts 8, and the XOR of the bits is the parity of their number. -/
theorem derivedParametersFollowTheirFormulas : Obligations.DerivedParametersFollowTheirFormulas := by
  intro c
  refine ⟨ivOf_toNat c, ?_, ?_, ?_, xor0Of_toNat c⟩
  · rw [ivOf_toNat]
    omega
  · rw [pwrdOf_toNat, sum_map_toNat_eq_countP]
    rfl
  · rw [pwrdOf_eq_one_iff, foldl_xor_iff_countP_odd]
    rfl

/-- Settles O42: `0xAA` has four 1 bits, so it drops out of the parity of `xor0_of`. -/
theorem directionIsTheParityOfTheSeed : Obligations.DirectionIsTheParityOfTheSeed := by
  refine ⟨fun c => ?_, by decide, by decide, by decide⟩
  have hmask : popcount (0xAA : Byte) = 4 := by decide
  have hinner := popcount_xor_mod_two (0xAA : Byte) (hi8 c)
  have houter := popcount_xor_mod_two (0xAA ^^^ hi8 c) (lo8 c)
  rw [pwrdOf_toNat, popcount_eq_hi8_add_lo8, xor0Of]
  omega

/-! ### The position `DINIT` loads -/

theorem ivOf_lt {c : Half} {L : Nat} (hL : 8 ≤ L) : (ivOf c).toNat < L :=
  (ivOf c).isLt.trans_le hL

/-- One place against the encode direction is one decode advance. -/
theorem dinitPos_eq_decAdv (c : Half) {L : Nat} (dir : BitVec 1) (hL : 8 ≤ L) :
    dinitPos c L dir = decAdv (ivOf c).toNat L dir := by
  have hlast : (ivOf c).toNat + 1 = L ↔ (ivOf c).toNat = L - 1 := by omega
  simp only [dinitPos, decAdv, incPos, decPos, hlast]

theorem dinitPos_lt (c : Half) {L : Nat} (dir : BitVec 1) (hL : 8 ≤ L) : dinitPos c L dir < L := by
  rw [dinitPos_eq_decAdv c dir hL]
  exact decAdv_lt dir (ivOf_lt hL)

theorem iterate_encAdv {q L : Nat} (dir : BitVec 1) (h : q < L) (n : Nat) :
    (fun p => encAdv p L dir)^[n] q = (q + n * encStride L dir) % L := by
  induction n with
  | zero => simpa using (Nat.mod_eq_of_lt h).symm
  | succ n ih =>
    rw [Function.iterate_succ_apply', ih, encAdv_eq_mod dir (Nat.mod_lt _ (by omega)), Nat.mod_add_mod, Nat.succ_mul,
      Nat.add_assoc]

/-- `L` encode advances return to their start, so all of them but the last end one decode advance from it. -/
theorem iterate_encAdv_pred {q L : Nat} (dir : BitVec 1) (h : q < L) :
    (fun p => encAdv p L dir)^[L - 1] q = decAdv q L dir := by
  have hround : encAdv ((fun p => encAdv p L dir)^[L - 1] q) L dir = q :=
    calc encAdv ((fun p => encAdv p L dir)^[L - 1] q) L dir
        = (fun p => encAdv p L dir)^[L - 1 + 1] q := by rw [Function.iterate_succ_apply']
      _ = (q + L * encStride L dir) % L := by rw [iterate_encAdv dir h, show L - 1 + 1 = L by omega]
      _ = q := by rw [Nat.add_mul_mod_self_left, Nat.mod_eq_of_lt h]
  have hlt : (fun p => encAdv p L dir)^[L - 1] q < L := by
    rw [iterate_encAdv dir h]
    exact Nat.mod_lt _ (by omega)
  rw [← decAdv_encAdv dir hlt, hround]

/-- Settles O45: both forms are the decode advance of `iv_of(CRC)`. -/
theorem dinitStartsWhereEncodeEnds : Obligations.DinitStartsWhereEncodeEnds := by
  intro c L dir _ hL
  have hiv : (ivOf c).toNat < L := ivOf_lt hL
  rw [dinitPos_eq_decAdv c dir hL, iterate_encAdv_pred dir hiv]
  refine ⟨rfl, ?_⟩
  rw [decAdv_eq_mod dir hiv, decStride]
  split <;> rfl

/-! ### The views -/

theorem exec_rdr {r : Nat} {g : Reg} (hg : regOfNumber r = some g) (s : State) :
    exec (.rdr r) s = .next (s.respond (s.readReg g)) := by
  simp [exec, execRdr, hg]

theorem exec_wrr_readOnly {s : State} {r : Nat} {g : Reg} (hs : s.err = 0) (hg : regOfNumber r = some g)
    (hro : regReadOnly g = true) (v : Nat) : exec (.wrr r v) s = .next { s with err := FaultCode.reg.code } := by
  simp [exec, execWrr, State.unlessFaulted_normal hs, State.raise_normal hs, hg, hro]

/-- Settles O29: a view is read from `CRC` as it stands, and is read only. -/
theorem viewsFollowCrc : Obligations.ViewsFollowCrc := by
  intro s
  refine ⟨exec_rdr (g := .iv) rfl s, exec_rdr (g := .par) rfl s, exec_rdr (g := .x0) rfl s, fun hs r hr v => ?_⟩
  simp only [List.mem_cons, List.not_mem_nil, or_false] at hr
  rcases hr with rfl | rfl | rfl
  · exact exec_wrr_readOnly (g := .iv) hs rfl rfl v
  · exact exec_wrr_readOnly (g := .par) hs rfl rfl v
  · exact exec_wrr_readOnly (g := .x0) hs rfl rfl v

/-! ### `EINIT` and `DINIT` in the normal state -/

theorem exec_einit_normal {s : State} (hs : s.Normal) :
    exec .einit s = .next (s.setWalk (ivOf s.crc).toNat (pwrdOf s.crc) (xor0Of s.crc)) :=
  State.unlessFaulted_normal hs _

theorem exec_dinit_normal {s : State} (hs : s.Normal) (dir : BitVec 1) (x : Byte) :
    exec (.dinit dir x) s = .next (s.setWalk (dinitPos s.crc s.ln8.toNat dir) dir x) :=
  State.unlessFaulted_normal hs _

/-- A position inside the body fits `POS`, which is as wide as `LN8`. -/
theorem setWalk_pos_toNat {s : State} {p : Nat} (hp : p < s.ln8.toNat) (dir : BitVec 1) (x : Byte) :
    (s.setWalk p dir x).pos.toNat = p := by
  rw [State.setWalk_pos, BitVec.toNat_ofNat, Nat.mod_eq_of_lt (hp.trans s.ln8.isLt)]

/-- Settles O43: `iv_of` is below 8, and a legal body has at least 8 bytes. -/
theorem einitLoadsTheEncodeState : Obligations.EinitLoadsTheEncodeState := by
  intro s hs
  refine ⟨_, exec_einit_normal hs, ?_, fun ⟨_, hln8, _⟩ => ?_⟩
  · rw [State.setWalk, BitVec.ofNat_toNat]
  · rw [setWalk_pos_toNat (ivOf_lt hln8)]
    exact ivOf_lt hln8

/-- Settles O44: the position stated is `dinitPos`, which lies in the body. -/
theorem dinitLoadsTheDecodeState : Obligations.DinitLoadsTheDecodeState := by
  intro s dir x hs ⟨_, hln8, _⟩
  have hpos : dinitPos s.crc s.ln8.toNat dir < s.ln8.toNat := dinitPos_lt s.crc dir hln8
  exact ⟨hpos, _, exec_dinit_normal hs dir x, rfl, setWalk_pos_toNat hpos dir x⟩

end Sys2Proof.Machine
end

section
/-! Positions and the step functions: the encode step rotates left and then right, and the decode step undoes the two in
the opposite order (43_walk R160 to R164, R169). -/

namespace Sys2Proof.Machine

/-! ### Positions -/

/-- Settles O46, by the laws of the advances in either direction. -/
theorem positionsWrapInTheBody : Obligations.PositionsWrapInTheBody :=
  fun _ _ _ _ hq => ⟨rfl, rfl, decPos_lt hq, incPos_lt hq, incPos_decPos hq, decPos_incPos hq, decPos_eq_mod hq,
    incPos_eq_mod hq, rfl, rfl, rfl, rfl⟩

/-! ### The step functions -/

theorem lowNibble_eq (bs : Byte) : lowNibble bs = bs.toNat % 16 := by
  rw [lowNibble, BitVec.extractLsb'_toNat, Nat.shiftRight_zero]

theorem highNibble_eq (bs : Byte) : highNibble bs = bs.toNat / 16 := by
  rw [highNibble, BitVec.extractLsb'_toNat, Nat.shiftRight_eq_div_pow]
  have := bs.isLt
  omega

/-- R162, with the nibbles as numbers. -/
theorem estep_fst (b k x : Byte) :
    (estep b k x).1 = rotr8 (rotl8 (b ^^^ x ^^^ k) ((k ^^^ x).toNat % 16)) ((k ^^^ x).toNat / 16) := by
  rw [← lowNibble_eq, ← highNibble_eq]
  rfl

theorem estep_snd (b k x : Byte) : (estep b k x).2 = x ^^^ (estep b k x).1 := rfl

/-- R164, with the nibbles as numbers. -/
theorem dstep_fst (c k x' : Byte) :
    (dstep c k x').1 =
      rotr8 (rotl8 c ((k ^^^ (x' ^^^ c)).toNat / 16)) ((k ^^^ (x' ^^^ c)).toNat % 16) ^^^ k ^^^ (x' ^^^ c) := by
  rw [← lowNibble_eq, ← highNibble_eq]
  rfl

theorem dstep_snd (c k x' : Byte) : (dstep c k x').2 = x' ^^^ c := rfl

theorem rotl8_rotr8_cancel (v : Byte) (n : Nat) : rotl8 (rotr8 v n) n = v := by
  rw [rotl8_rotr8, rotr8_rotl8_cancel]

/-- Left by `m`, right by `n`; then left by `n`, right by `m`. -/
theorem rotations_cancel (v : Byte) (m n : Nat) : rotr8 (rotl8 (rotr8 (rotl8 v m) n) n) m = v := by
  rw [rotl8_rotr8_cancel, rotr8_rotl8_cancel]

/-- The XOR of the two keystream bytes is the ciphertext byte, so the decode step finds the earlier keystream byte
first, and with it the amounts of the rotations. -/
theorem dstep_estep (b k x : Byte) : dstep (estep b k x).1 k (estep b k x).2 = (b, x) := by
  have hx : (estep b k x).2 ^^^ (estep b k x).1 = x := xor_cancel_right x _
  refine Prod.ext ?_ hx
  rw [dstep_fst, hx, estep_fst, rotations_cancel, xor_cancel_right, xor_cancel_right]

theorem estep_dstep (c k x' : Byte) : estep (dstep c k x').1 k (dstep c k x').2 = (c, x') := by
  have hc : (estep (dstep c k x').1 k (dstep c k x').2).1 = c := by
    rw [estep_fst, dstep_fst, dstep_snd]
    generalize hx : x' ^^^ c = x
    generalize hv : rotr8 (rotl8 c ((k ^^^ x).toNat / 16)) ((k ^^^ x).toNat % 16) = v
    rw [xor_cancel_right, xor_cancel_right, ← hv, rotations_cancel]
  refine Prod.ext hc ?_
  rw [estep_snd, hc, dstep_snd, xor_cancel_right]

/-- Settles O47: for a fixed `k` and `x` the inverse of the encode step decodes `c` with the keystream byte `x ^ c`. -/
theorem stepFunctionsAreInverse : Obligations.StepFunctionsAreInverse := by
  refine ⟨fun b k x c x' h => ?_, fun c k x' b x h => ?_, fun k x => ?_⟩
  · simpa only [h] using dstep_estep b k x
  · simpa only [h] using estep_dstep c k x'
  · refine Function.bijective_iff_has_inverse.2 ⟨fun c => (dstep c k (x ^^^ c)).1, fun b => ?_, fun c => ?_⟩
    · exact congrArg Prod.fst (dstep_estep b k x)
    · have hx : (dstep c k (x ^^^ c)).2 = x := xor_cancel_right x c
      simpa only [hx] using congrArg Prod.fst (estep_dstep c k (x ^^^ c))

end Sys2Proof.Machine
end

section
/-! The two engines. The encode and the decode engine differ in their step function and their advance alone, so what
holds of an iteration and of a run of iterations is said once, of either (`Engine`): a run visits offsets one stride
apart, each once in `LN8` iterations, and it changes a byte at the visit to its offset only (43_walk R160 to R168). -/

namespace Sys2Proof.Machine

theorem encStride_coprime {L : Nat} (dir : BitVec 1) (hL : 0 < L) : L.Coprime (encStride L dir) := by
  rw [encStride]
  split
  · exact (Nat.coprime_self_sub_right hL).2 (Nat.coprime_one_right L)
  · exact Nat.coprime_one_right L

/-- Which way a walk goes: the commands `ESTEP` and `EWALK`, or `DSTEP` and `DWALK`. -/
inductive Engine where
  | encode
  | decode

namespace Engine

/-- The step function of R162 or of R164. -/
def transform : Engine → Byte → Byte → Byte → Byte × Byte
  | .encode => estep
  | .decode => dstep

/-- The advance of R160. -/
def adv : Engine → Nat → Nat → BitVec 1 → Nat
  | .encode => encAdv
  | .decode => decAdv

/-- The direction in which the encode advance goes where this engine's goes: decoding runs backwards. -/
def heading : Engine → BitVec 1 → BitVec 1
  | .encode, dir => dir
  | .decode, dir => ~~~dir

/-- One iteration (R163, R165). -/
def step : Engine → State → State
  | .encode => encodeStep
  | .decode => decodeStep

/-- The command of one iteration. -/
def stepCommand : Engine → Instr
  | .encode => .estep
  | .decode => .dstep

/-- The command of `LN8` iterations. -/
def walkCommand : Engine → Instr
  | .encode => .ewalk
  | .decode => .dwalk

/-- The position after `j` advances from `q` in a body of `L` bytes (R168). -/
def visit (e : Engine) (L : Nat) (dir : BitVec 1) (q j : Nat) : Nat := (fun p => e.adv p L dir)^[j] q

/-- The position a walk from `s` visits after `j` iterations. -/
def offset (e : Engine) (s : State) (j : Nat) : Nat := e.visit s.ln8.toNat s.dir s.pos.toNat j

/-! ### One iteration -/

theorem step_eq (e : Engine) (s : State) :
    e.step s =
      s.stepTo (e.transform (s.readBuf s.pos.toNat) s.keyByte s.xOr) (e.adv s.pos.toNat s.ln8.toNat s.dir) := by
  cases e <;> rfl

theorem step_same (e : Engine) (s : State) : SameButWalk s (e.step s) := by
  rw [step_eq]
  exact stepTo_same s _ _

theorem step_readBuf (e : Engine) (s : State) (a : Nat) :
    (e.step s).readBuf a =
      if a = s.pos.toNat then (e.transform (s.readBuf s.pos.toNat) s.keyByte s.xOr).1 else s.readBuf a := by
  rw [step_eq, State.readBuf_stepTo]

theorem adv_eq_encAdv (e : Engine) (q L : Nat) (dir : BitVec 1) : e.adv q L dir = encAdv q L (e.heading dir) := by
  cases e with
  | encode => rfl
  | decode => rcases BitVec.eq_zero_or_eq_one dir with rfl | rfl <;> rfl

theorem adv_eq_mod (e : Engine) {q L : Nat} (dir : BitVec 1) (h : q < L) :
    e.adv q L dir = (q + encStride L (e.heading dir)) % L := by
  rw [adv_eq_encAdv, encAdv_eq_mod _ h]

theorem step_pos (e : Engine) {s : State} (h : s.pos.toNat < s.ln8.toNat) :
    (e.step s).pos.toNat = e.adv s.pos.toNat s.ln8.toNat s.dir := by
  cases e with
  | encode => exact encodeStep_pos h
  | decode => exact decodeStep_pos h

/-! ### The offsets a walk visits -/

theorem visit_eq_mod (e : Engine) {L q : Nat} (dir : BitVec 1) (hq : q < L) (j : Nat) :
    e.visit L dir q j = (q + j * encStride L (e.heading dir)) % L := by
  simp only [visit, adv_eq_encAdv]
  exact iterate_encAdv _ hq j

theorem visit_lt (e : Engine) {L q : Nat} (dir : BitVec 1) (hq : q < L) (j : Nat) : e.visit L dir q j < L := by
  rw [visit_eq_mod e dir hq]
  exact Nat.mod_lt _ (by omega)

theorem visit_length (e : Engine) {L q : Nat} (dir : BitVec 1) (hq : q < L) : e.visit L dir q L = q := by
  rw [visit_eq_mod e dir hq, Nat.add_mul_mod_self_left, Nat.mod_eq_of_lt hq]

/-- The stride has no factor in common with the length, so no offset comes twice within one round. -/
theorem visit_inj (e : Engine) {L q i j : Nat} {dir : BitVec 1} (hq : q < L) (hi : i < L) (hj : j < L)
    (h : e.visit L dir q i = e.visit L dir q j) : i = j := by
  rw [visit_eq_mod e dir hq, visit_eq_mod e dir hq] at h
  have hmul : i * encStride L (e.heading dir) ≡ j * encStride L (e.heading dir) [MOD L] :=
    Nat.ModEq.add_left_cancel' q h
  have hmod : i ≡ j [MOD L] := Nat.ModEq.cancel_right_of_coprime (encStride_coprime _ (by omega)) hmul
  exact hmod.eq_of_lt_of_lt hi hj

/-- `L` distinct offsets below `L` are all of them. -/
theorem map_visit_perm_range (e : Engine) {L q : Nat} (dir : BitVec 1) (hq : q < L) :
    ((List.range L).map (e.visit L dir q)).Perm (List.range L) := by
  have hnodup : ((List.range L).map (e.visit L dir q)).Nodup :=
    List.nodup_range.map_on fun i hi j hj h => e.visit_inj hq (List.mem_range.1 hi) (List.mem_range.1 hj) h
  have hsubset : ((List.range L).map (e.visit L dir q)) ⊆ List.range L :=
    List.forall_mem_map.2 fun j _ => List.mem_range.2 (e.visit_lt dir hq j)
  exact (hnodup.subperm hsubset).perm_of_length_le (by simp)

/-! ### A run of iterations -/

theorem repeatStep_pos (e : Engine) {s : State} (h : s.pos.toNat < s.ln8.toNat) (n : Nat) :
    (repeatStep e.step n s).pos.toNat = e.offset s n := by
  rw [offset, visit_eq_mod e s.dir h]
  exact Machine.repeatStep_pos (stride := fun L dir => encStride L (e.heading dir)) e.step_same
    (fun u hu => (e.step_pos hu).trans (e.adv_eq_mod u.dir hu)) n h

theorem offset_lt (e : Engine) {s : State} (h : s.pos.toNat < s.ln8.toNat) (j : Nat) : e.offset s j < s.ln8.toNat :=
  e.visit_lt s.dir h j

theorem repeatStep_pos_lt (e : Engine) {s : State} (h : s.pos.toNat < s.ln8.toNat) (n : Nat) :
    (repeatStep e.step n s).pos.toNat < (repeatStep e.step n s).ln8.toNat := by
  rw [e.repeatStep_pos h, (repeatStep_same e.step_same n s).ln8]
  exact e.offset_lt h n

theorem offset_ne (e : Engine) {s : State} (h : s.pos.toNat < s.ln8.toNat) {i j : Nat} (hi : i < s.ln8.toNat)
    (hj : j < s.ln8.toNat) (hne : i ≠ j) : e.offset s i ≠ e.offset s j :=
  fun heq => hne (e.visit_inj h hi hj heq)

/-- A byte stays as it is through the iterations `m` to `n - 1` if none of them visits its address. -/
theorem repeatStep_readBuf_unvisited (e : Engine) {s : State} (h : s.pos.toNat < s.ln8.toNat) {a m n : Nat}
    (hmn : m ≤ n) (hne : ∀ i, m ≤ i → i < n → a ≠ e.offset s i) :
    (repeatStep e.step n s).readBuf a = (repeatStep e.step m s).readBuf a := by
  induction n, hmn using Nat.le_induction with
  | base => rfl
  | succ n hmn ih =>
    rw [repeatStep_succ, step_readBuf, e.repeatStep_pos h, if_neg (hne n hmn (Nat.lt_succ_self n))]
    exact ih fun i hmi hin => hne i hmi (Nat.lt_succ_of_lt hin)

/-- The byte an iteration finds is the byte from before the walk. -/
theorem repeatStep_readBuf_before (e : Engine) {s : State} (h : s.pos.toNat < s.ln8.toNat) {i : Nat}
    (hi : i < s.ln8.toNat) : (repeatStep e.step i s).readBuf (e.offset s i) = s.readBuf (e.offset s i) :=
  e.repeatStep_readBuf_unvisited h (Nat.zero_le i) fun _ _ hki =>
    e.offset_ne h hi (hki.trans hi) (Nat.ne_of_gt hki)

/-- The byte an iteration writes is the byte after the walk. -/
theorem repeatStep_readBuf_after (e : Engine) {s : State} (h : s.pos.toNat < s.ln8.toNat) {i m : Nat} (him : i < m)
    (hm : m ≤ s.ln8.toNat) :
    (repeatStep e.step s.ln8.toNat s).readBuf (e.offset s i) = (repeatStep e.step m s).readBuf (e.offset s i) :=
  e.repeatStep_readBuf_unvisited h hm fun _ hmk hk =>
    e.offset_ne h (him.trans_le hm) hk (Nat.ne_of_lt (him.trans_le hmk))

theorem repeatStep_readBuf_outside (e : Engine) {s : State} (h : s.pos.toNat < s.ln8.toNat) (n : Nat) {a : Nat}
    (ha : s.ln8.toNat ≤ a) : (repeatStep e.step n s).readBuf a = s.readBuf a :=
  e.repeatStep_readBuf_unvisited h (Nat.zero_le n) fun i _ _ => Nat.ne_of_gt ((e.offset_lt h i).trans_le ha)

end Engine

/-! ### The commands where they can run -/

theorem State.CanStep.pos_lt {s : State} (h : s.CanStep) : s.pos.toNat < s.ln8.toNat := by
  obtain ⟨-, hpos, -⟩ := h
  exact hpos

theorem SameButWalk.canStep {s t : State} (hst : SameButWalk s t) (h : s.CanStep) (hpos : t.pos.toNat < t.ln8.toNat) :
    t.CanStep := by
  obtain ⟨h0, -, hln8, hklen⟩ := h
  refine ⟨hst.err.trans h0, hpos, ?_, ?_⟩
  · rw [State.LegalLn8, hst.ln8, hst.cfg]
    exact hln8
  · rw [State.LegalKlen, hst.klen, hst.cfg]
    exact hklen

theorem Engine.exec_stepCommand (e : Engine) {s : State} (h : s.CanStep) : exec e.stepCommand s = .next (e.step s) := by
  cases e <;> exact State.engine_of_canStep h _

theorem Engine.exec_walkCommand (e : Engine) {s : State} (h : s.CanStep) :
    exec e.walkCommand s = .next (repeatStep e.step s.ln8.toNat s) := by
  cases e <;> exact State.engine_of_canStep h _

theorem Engine.step_canStep (e : Engine) {s : State} (h : s.CanStep) : (e.step s).CanStep := by
  refine (e.step_same s).canStep h ?_
  rw [e.step_pos h.pos_lt, (e.step_same s).ln8, e.adv_eq_mod s.dir h.pos_lt]
  exact Nat.mod_lt _ (Nat.zero_lt_of_lt h.pos_lt)

/-- Consecutive step commands are a run of iterations. -/
theorem Engine.runInstrs_stepCommand (e : Engine) {s : State} (h : s.CanStep) (n : Nat) :
    runInstrs (List.replicate n e.stepCommand) s = .next (repeatStep e.step n s) := by
  induction n generalizing s with
  | zero => rfl
  | succ n ih =>
    rw [List.replicate_succ, runInstrs, e.exec_stepCommand h, andThen_next, ih (e.step_canStep h), repeatStep]

/-- Settles O48: one iteration of the encode engine. -/
theorem estepTransformsOneByte : Obligations.EstepTransformsOneByte := by
  intro s h q L k bs c
  have hc : (estep (s.readBuf q) k s.xOr).1 = c := estep_fst _ _ _
  refine ⟨_, Engine.encode.exec_stepCommand h, ?_, ?_, fun a => ?_⟩
  · rw [← hc]
    rfl
  · rw [Engine.step_pos _ h.pos_lt]
    simp only [Engine.adv, encAdv, decPos_eq_mod h.pos_lt, incPos_eq_mod h.pos_lt, q, L]
  · rw [← hc]
    exact Engine.encode.step_readBuf s a

/-- Settles O49: one iteration of the decode engine. -/
theorem dstepTransformsOneByte : Obligations.DstepTransformsOneByte := by
  intro s h q L k x bs b
  have hb : (dstep (s.readBuf q) k s.xOr).1 = b := dstep_fst _ _ _
  refine ⟨_, Engine.decode.exec_stepCommand h, rfl, ?_, fun a => ?_⟩
  · rw [Engine.step_pos _ h.pos_lt]
    simp only [Engine.adv, decAdv, decPos_eq_mod h.pos_lt, incPos_eq_mod h.pos_lt, q, L]
  · rw [← hb]
    exact Engine.decode.step_readBuf s a

/-! ### Outside the body -/

theorem State.engine_outside {s : State} (h0 : s.err = 0) (hpos : s.ln8.toNat ≤ s.pos.toNat) (k : State) :
    s.engine k = .next { s with err := FaultCode.pos.code } := by
  rw [State.engine, State.unlessFaulted_normal h0, if_pos hpos, State.raise_normal h0]

theorem State.engine_faulted {s : State} (h0 : s.err ≠ 0) (k : State) : s.engine k = .next s :=
  State.unlessFaulted_faulted h0 _

/-- Each of the four commands is `State.engine` of its work. -/
theorem exec_eq_engine {i : Instr} (hi : i ∈ [Instr.estep, .dstep, .ewalk, .dwalk]) (s : State) :
    ∃ k, exec i s = s.engine k := by
  simp only [List.mem_cons, List.not_mem_nil, or_false] at hi
  rcases hi with rfl | rfl | rfl | rfl <;> exact ⟨_, rfl⟩

/-- Settles O50: the engine's checks come before its work. -/
theorem stepsOutsideTheBodyFault : Obligations.StepsOutsideTheBodyFault := by
  intro s i hi
  obtain ⟨k, hk⟩ := exec_eq_engine hi s
  rw [hk]
  exact ⟨fun h0 hpos => State.engine_outside h0 hpos k, fun h0 => State.engine_faulted h0 k⟩

end Sys2Proof.Machine
end

section
/-! The walks: `EWALK` and `DWALK` as `LN8` step commands, the offsets they visit, and the keystream byte as the running
XOR of the ciphertext bytes, which the encode walk writes and the decode walk finds (43_walk R166 to R168, R170). -/

namespace Sys2Proof.Machine

/-! ### A walk is `LN8` steps -/

theorem SameButWalk.eq_of_pos {s t : State} (h : SameButWalk s t) (hpos : t.pos = s.pos) :
    t = { s with buf := t.buf, xOr := t.xOr } := by
  obtain ⟨hcrc, hln8, hklen, hdir, hrot, herr, hrsp, hkey, hcfg, hinput⟩ := h
  simp [← hcrc, ← hln8, ← hklen, ← hdir, ← hrot, ← herr, ← hrsp, ← hkey, ← hcfg, ← hinput, ← hpos]

namespace Engine

/-- A walk ends where it started. -/
theorem walk_pos (e : Engine) {s : State} (h : s.pos.toNat < s.ln8.toNat) :
    (repeatStep e.step s.ln8.toNat s).pos = s.pos := by
  cases e with
  | encode => exact ewalk_pos h
  | decode => exact dwalk_pos h

/-- R166 and R167, of either engine. -/
theorem walk_eq_steps (e : Engine) {s : State} (h : s.CanStep) :
    ∃ t, exec e.walkCommand s = .next t ∧ runInstrs (List.replicate s.ln8.toNat e.stepCommand) s = .next t ∧
      t = { s with buf := t.buf, xOr := t.xOr } ∧ ∀ a, s.ln8.toNat ≤ a → t.readBuf a = s.readBuf a :=
  ⟨_, e.exec_walkCommand h, e.runInstrs_stepCommand h _,
    (repeatStep_same e.step_same _ s).eq_of_pos (e.walk_pos h.pos_lt),
    fun _ ha => e.repeatStep_readBuf_outside h.pos_lt _ ha⟩

end Engine

/-- Settles O51: the encode engine. -/
theorem ewalkIsLn8Esteps : Obligations.EwalkIsLn8Esteps := fun _ h => Engine.encode.walk_eq_steps h

/-- Settles O52: the decode engine. -/
theorem dwalkIsLn8Dsteps : Obligations.DwalkIsLn8Dsteps := fun _ h => Engine.decode.walk_eq_steps h

/-! ### The offsets of a walk -/

/-- `j` strides of `L - 1` places up are `j` places down. -/
theorem add_mul_pred_mod {q L j : Nat} (hL : 0 < L) (hj : j ≤ L) : (q + j * (L - 1)) % L = (q + (L - j)) % L := by
  have hleft : q + j * (L - 1) + j = q + j * L := by
    rw [Nat.add_assoc, ← Nat.mul_succ, Nat.succ_eq_add_one, Nat.sub_add_cancel hL]
  have hright : q + (L - j) + j = q + L := by omega
  refine Nat.ModEq.add_right_cancel' j ?_
  rw [hleft, hright, Nat.ModEq, Nat.add_mul_mod_self_right, Nat.add_mod_right]

theorem Engine.visit_eq (e : Engine) {q L j : Nat} (dir : BitVec 1) (hq : q < L) (hj : j ≤ L) :
    e.visit L dir q j = if e.heading dir = 1 then (q + (L - j)) % L else (q + j) % L := by
  rw [visit_eq_mod e dir hq, encStride]
  split
  · exact add_mul_pred_mod (Nat.zero_lt_of_lt hq) hj
  · rw [Nat.mul_one]

theorem visit_decode {q L j : Nat} (dir : BitVec 1) (hq : q < L) (hj : j ≤ L) :
    Engine.decode.visit L dir q j = if dir = 1 then (q + j) % L else (q + (L - j)) % L := by
  rw [Engine.visit_eq _ dir hq hj]
  rcases BitVec.eq_zero_or_eq_one dir with rfl | rfl <;> rfl

/-- Settles O53, for either engine. -/
theorem walksVisitEachOffsetOnce : Obligations.WalksVisitEachOffsetOnce := by
  refine ⟨fun L q dir _ _ hq => ?_, fun s h j _ => ?_⟩
  · exact ⟨fun j hj => Engine.encode.visit_eq dir hq hj, fun j hj => visit_decode dir hq hj,
      Engine.encode.map_visit_perm_range dir hq, Engine.decode.map_visit_perm_range dir hq,
      Engine.encode.visit_length dir hq, Engine.decode.visit_length dir hq⟩
  · exact ⟨⟨_, Engine.encode.runInstrs_stepCommand h j, Engine.encode.repeatStep_pos h.pos_lt j⟩,
      ⟨_, Engine.decode.runInstrs_stepCommand h j, Engine.decode.repeatStep_pos h.pos_lt j⟩⟩

/-! ### The keystream sum law -/

/-- If iteration `i` XORs the byte `c i` into `X_OR`, a run XORs all of them. -/
theorem repeatStep_xOr_eq_foldl {f : State → State} {s : State} {c : Nat → Byte} {n : Nat}
    (h : ∀ i < n, (repeatStep f (i + 1) s).xOr = (repeatStep f i s).xOr ^^^ c i) :
    (repeatStep f n s).xOr = ((List.range n).map c).foldl (· ^^^ ·) s.xOr := by
  induction n with
  | zero => rfl
  | succ n ih =>
    rw [h n (Nat.lt_succ_self n), ih fun i hi => h i (Nat.lt_succ_of_lt hi), List.range_succ, List.map_append,
      List.foldl_append]
    rfl

/-- The XOR of the bytes of the body does not depend on the order of a walk. -/
theorem Engine.foldl_visited (e : Engine) {s : State} (h : s.pos.toNat < s.ln8.toNat) (r : Nat → Byte) (x : Byte) :
    ((List.range s.ln8.toNat).map fun i => r (e.offset s i)).foldl (· ^^^ ·) x =
      ((List.range s.ln8.toNat).map r).foldl (· ^^^ ·) x := by
  have hperm := (e.map_visit_perm_range s.dir h).map r
  rw [List.map_map] at hperm
  exact hperm.foldl_eq x

/-- An encode iteration XORs the byte it writes into `X_OR`. -/
theorem encodeStep_xOr (s : State) : (encodeStep s).xOr = s.xOr ^^^ (encodeStep s).readBuf s.pos.toNat := by
  have hwritten := (Engine.encode.step_readBuf s s.pos.toNat).trans (if_pos rfl)
  exact congrArg (s.xOr ^^^ ·) hwritten.symm

/-- A decode iteration XORs the byte it finds into `X_OR`. -/
theorem decodeStep_xOr (s : State) : (decodeStep s).xOr = s.xOr ^^^ s.readBuf s.pos.toNat := rfl

/-- R170 for `EWALK`, whose iterations write the bytes of the body after it. -/
theorem ewalk_xOr {s : State} (h : s.pos.toNat < s.ln8.toNat) :
    (repeatStep encodeStep s.ln8.toNat s).xOr =
      ((List.range s.ln8.toNat).map (repeatStep encodeStep s.ln8.toNat s).readBuf).foldl (· ^^^ ·) s.xOr := by
  rw [← Engine.encode.foldl_visited h]
  refine repeatStep_xOr_eq_foldl fun i hi => ?_
  have hwritten : (repeatStep encodeStep s.ln8.toNat s).readBuf (Engine.encode.offset s i) =
      (repeatStep encodeStep (i + 1) s).readBuf (Engine.encode.offset s i) :=
    Engine.encode.repeatStep_readBuf_after h (Nat.lt_succ_self i) hi
  rw [hwritten, repeatStep_succ, encodeStep_xOr, ← Engine.encode.repeatStep_pos h i]
  rfl

/-- R170 for `DWALK`, whose iterations find the bytes of the body before it. -/
theorem dwalk_xOr {s : State} (h : s.pos.toNat < s.ln8.toNat) :
    (repeatStep decodeStep s.ln8.toNat s).xOr = ((List.range s.ln8.toNat).map s.readBuf).foldl (· ^^^ ·) s.xOr := by
  rw [← Engine.decode.foldl_visited h]
  refine repeatStep_xOr_eq_foldl fun i hi => ?_
  rw [← Engine.decode.repeatStep_readBuf_before h hi, ← Engine.decode.repeatStep_pos h i, repeatStep_succ]
  exact decodeStep_xOr _

/-- Settles O54: the decode walk's sum names `X_OR` and the body only. -/
theorem keystreamSumLaw : Obligations.KeystreamSumLaw := by
  refine ⟨fun s h => ⟨⟨_, Engine.encode.exec_walkCommand h, ewalk_xOr h.pos_lt⟩,
    ⟨_, Engine.decode.exec_walkCommand h, dwalk_xOr h.pos_lt⟩⟩, ?_⟩
  intro s s' t t' h h' hxOr hln8 hbody ht ht'
  cases (Engine.decode.exec_walkCommand h).symm.trans ht
  cases (Engine.decode.exec_walkCommand h').symm.trans ht'
  have hbodies : (List.range s.ln8.toNat).map s.readBuf = (List.range s.ln8.toNat).map s'.readBuf :=
    List.map_congr_left fun a ha => hbody a (List.mem_range.1 ha)
  calc (repeatStep decodeStep s.ln8.toNat s).xOr
      = ((List.range s.ln8.toNat).map s.readBuf).foldl (· ^^^ ·) s.xOr := dwalk_xOr h.pos_lt
    _ = ((List.range s'.ln8.toNat).map s'.readBuf).foldl (· ^^^ ·) s'.xOr := by rw [hbodies, hxOr, hln8]
    _ = (repeatStep decodeStep s'.ln8.toNat s').xOr := (dwalk_xOr h'.pos_lt).symm

end Sys2Proof.Machine
end

section
/-! What a walk keeps of its start: iterations from two states that agree at the bytes they find stay in agreement, so a
late byte does not reach the output before it (43_walk R172); and the decode iterations undo the encode iterations,
the last one first (43_walk R171). -/

namespace Sys2Proof.Machine

/-! ### States that agree at some addresses -/

/-- `t` has the registers and the key of `s`, and its bytes at the addresses `A`. -/
structure AgreeAt (A : Nat → Prop) (s t : State) : Prop where
  same : SameButWalk s t
  xOr : t.xOr = s.xOr
  pos : t.pos = s.pos
  readBuf : ∀ a, A a → t.readBuf a = s.readBuf a

theorem AgreeAt.refl (A : Nat → Prop) (s : State) : AgreeAt A s s := ⟨.refl s, rfl, rfl, fun _ _ => rfl⟩

theorem AgreeAt.trans {A : Nat → Prop} {s t u : State} (h : AgreeAt A s t) (k : AgreeAt A t u) : AgreeAt A s u :=
  ⟨h.same.trans k.same, k.xOr.trans h.xOr, k.pos.trans h.pos, fun a ha => (k.readBuf a ha).trans (h.readBuf a ha)⟩

theorem AgreeAt.keyByte {A : Nat → Prop} {s t : State} (h : AgreeAt A s t) : t.keyByte = s.keyByte := by
  rw [State.keyByte, State.keyByte, h.pos, h.same.klen, State.readKey_congr h.same.key]

theorem AgreeAt.stepTo {A : Nat → Prop} {s t : State} (h : AgreeAt A s t) (r : Byte × Byte) (p : Nat) :
    AgreeAt A (s.stepTo r p) (t.stepTo r p) := by
  refine ⟨?_, rfl, rfl, fun a ha => ?_⟩
  · obtain ⟨hcrc, hln8, hklen, hdir, hrot, herr, hrsp, hkey, hcfg, hinput⟩ := h.same
    exact ⟨hcrc, hln8, hklen, hdir, hrot, herr, hrsp, hkey, hcfg, hinput⟩
  · rw [State.readBuf_stepTo, State.readBuf_stepTo, h.pos, h.readBuf a ha]

/-- One iteration keeps agreement where the byte it finds is agreed on. -/
theorem AgreeAt.step {A : Nat → Prop} {s t : State} (h : AgreeAt A s t) (e : Engine) (hA : A s.pos.toNat) :
    AgreeAt A (e.step s) (e.step t) := by
  rw [e.step_eq t, h.pos, h.readBuf _ hA, h.keyByte, h.xOr, h.same.ln8, h.same.dir, e.step_eq s]
  exact h.stepTo _ _

/-- A run of iterations keeps agreement if the two states agree at all offsets it visits. -/
theorem AgreeAt.repeatStep {A : Nat → Prop} {s t : State} (h : AgreeAt A s t) (e : Engine)
    (hpos : s.pos.toNat < s.ln8.toNat) {n : Nat} (hA : ∀ i < n, A (e.offset s i)) :
    AgreeAt A (repeatStep e.step n s) (repeatStep e.step n t) := by
  induction n with
  | zero => exact h
  | succ n ih =>
    rw [repeatStep_succ, repeatStep_succ]
    refine (ih fun i hi => hA i (Nat.lt_succ_of_lt hi)).step e ?_
    rw [e.repeatStep_pos hpos]
    exact hA n (Nat.lt_succ_self n)

/-! ### A late byte does not reach earlier output -/

theorem agreeAt_writeBuf (s : State) (a : Nat) (d : Byte) : AgreeAt (· ≠ a) s (s.writeBuf a d) :=
  ⟨⟨rfl, rfl, rfl, rfl, rfl, rfl, rfl, rfl, rfl, rfl⟩, rfl, rfl,
    fun b hb => (State.readBuf_writeBuf s a b d).trans (if_neg hb)⟩

/-- Settles O56: the first `j` iterations keep agreement away from the `j`-th offset, and the rest of the walk does not
come back to what they wrote. -/
theorem lateBytesDoNotReachEarlierOutput : Obligations.LateBytesDoNotReachEarlierOutput := by
  intro s d j h hj at'
  let e : Engine := .encode
  let u := s.writeBuf (e.offset s j) d
  have hpos : s.pos.toNat < s.ln8.toNat := h.pos_lt
  have hu : u.CanStep := h
  have hagree : AgreeAt (· ≠ e.offset s j) (repeatStep e.step j s) (repeatStep e.step j u) :=
    (agreeAt_writeBuf s _ d).repeatStep e hpos fun i hi => e.offset_ne hpos (hi.trans hj) hj (Nat.ne_of_lt hi)
  refine ⟨_, _, e.exec_walkCommand h, e.exec_walkCommand hu, fun i hi => ?_⟩
  calc (repeatStep e.step s.ln8.toNat s).readBuf (e.offset s i)
      = (repeatStep e.step j s).readBuf (e.offset s i) := e.repeatStep_readBuf_after hpos hi hj.le
    _ = (repeatStep e.step j u).readBuf (e.offset s i) :=
        (hagree.readBuf _ (e.offset_ne hpos (hi.trans hj) hj (Nat.ne_of_lt hi))).symm
    _ = (repeatStep e.step u.ln8.toNat u).readBuf (e.offset u i) :=
        (e.repeatStep_readBuf_after (s := u) hpos hi hj.le).symm

/-! ### The round trip -/

/-- The position moved one decode advance, as `DINIT` moves it from the end of an encode walk. -/
def State.retreat (s : State) : State := s.setWalk (decAdv s.pos.toNat s.ln8.toNat s.dir) s.dir s.xOr

theorem retreat_pos {s : State} (h : s.pos.toNat < s.ln8.toNat) :
    s.retreat.pos.toNat = decAdv s.pos.toNat s.ln8.toNat s.dir :=
  setWalk_pos_toNat (decAdv_lt s.dir h) _ _

theorem retreat_pos_lt {s : State} (h : s.pos.toNat < s.ln8.toNat) : s.retreat.pos.toNat < s.retreat.ln8.toNat :=
  (retreat_pos h).trans_lt (decAdv_lt s.dir h)

theorem retreat_encodeStep_pos {s : State} (h : s.pos.toNat < s.ln8.toNat) :
    (encodeStep s).retreat.pos.toNat = s.pos.toNat := by
  have hlt : (encodeStep s).pos.toNat < (encodeStep s).ln8.toNat :=
    (encodeStep_pos h).trans_lt (encAdv_lt s.dir h)
  rw [retreat_pos hlt, encodeStep_pos h]
  exact decAdv_encAdv s.dir h

/-- A decode iteration back from an encode iteration: byte and keystream byte are those before both. -/
theorem decodeStep_retreat_encodeStep {s : State} (h : s.pos.toNat < s.ln8.toNat) :
    AgreeAt (fun _ => True) s.retreat (decodeStep (encodeStep s).retreat) := by
  let c := estep (s.readBuf s.pos.toNat) s.keyByte s.xOr
  let u := (encodeStep s).retreat
  have hpos : u.pos.toNat = s.pos.toNat := retreat_encodeStep_pos h
  have hbyte : u.readBuf u.pos.toNat = c.1 := by
    rw [hpos]
    exact (Engine.encode.step_readBuf s _).trans (if_pos rfl)
  have hkey : u.keyByte = s.keyByte := by
    rw [State.keyByte, hpos]
    rfl
  have hstep : decodeStep u = u.stepTo (s.readBuf s.pos.toNat, s.xOr) (decAdv s.pos.toNat s.ln8.toNat s.dir) := by
    rw [decodeStep, hbyte, hkey, hpos, show u.xOr = c.2 from rfl, dstep_estep]
    rfl
  rw [hstep]
  refine ⟨⟨rfl, rfl, rfl, rfl, rfl, rfl, rfl, rfl, rfl, rfl⟩, rfl, rfl, fun a _ => ?_⟩
  rw [State.readBuf_stepTo, hpos]
  split
  · next ha => rw [ha]; rfl
  · next ha => exact (Engine.encode.step_readBuf s a).trans (if_neg ha)

/-- As many decode iterations back from a run of encode iterations. -/
theorem decodeSteps_retreat_encodeSteps {s : State} (h : s.pos.toNat < s.ln8.toNat) (n : Nat) :
    AgreeAt (fun _ => True) s.retreat (repeatStep decodeStep n (repeatStep encodeStep n s).retreat) := by
  induction n with
  | zero => exact .refl _ _
  | succ n ih =>
    have hlt := Engine.encode.repeatStep_pos_lt h n
    rw [repeatStep_succ encodeStep, repeatStep]
    exact ih.trans ((decodeStep_retreat_encodeStep hlt).repeatStep .decode (retreat_pos_lt hlt) fun _ _ => trivial)

theorem retreat_canStep {s : State} (h : s.CanStep) : s.retreat.CanStep :=
  SameButWalk.canStep (s := s) ⟨rfl, rfl, rfl, rfl, rfl, rfl, rfl, rfl, rfl, rfl⟩ h (retreat_pos_lt h.pos_lt)

theorem exec_dinit_eq_retreat {s : State} (h0 : s.Normal) (hln8 : 8 ≤ s.ln8.toNat)
    (hpos : s.pos.toNat = (ivOf s.crc).toNat) : exec (.dinit s.dir s.xOr) s = .next s.retreat := by
  rw [exec_dinit_normal h0, dinitPos_eq_decAdv s.crc s.dir hln8, ← hpos]
  rfl

/-- Settles O55: the encode walk ends at `iv_of(CRC)`, from where `DINIT` moves one decode advance. -/
theorem walkRoundTrip : Obligations.WalkRoundTrip := by
  intro s h0 hln8 hklen
  have ⟨_, hmin, _⟩ := hln8
  let s1 := s.setWalk (ivOf s.crc).toNat (pwrdOf s.crc) (xor0Of s.crc)
  let s2 := repeatStep encodeStep s1.ln8.toNat s1
  have hpos1 : s1.pos.toNat = (ivOf s.crc).toNat := setWalk_pos_toNat (ivOf_lt hmin) _ _
  have h1 : s1.CanStep := ⟨h0, hpos1.trans_lt (ivOf_lt hmin), hln8, hklen⟩
  have h2 : s2.CanStep := repeatStep_keeps (P := State.CanStep) (fun _ => Engine.encode.step_canStep) _ h1
  have hsame : SameButWalk s1 s2 := repeatStep_same encodeStep_same _ s1
  have hcount : s2.retreat.ln8.toNat = s1.ln8.toNat := congrArg _ hsame.ln8
  have hpos2 : s2.pos.toNat = (ivOf s2.crc).toNat := by
    rw [ewalk_pos h1.pos_lt, hsame.crc]
    exact hpos1
  have hmin2 : 8 ≤ s2.ln8.toNat := by
    rw [hsame.ln8]
    exact hmin
  have hback : AgreeAt (fun _ => True) s1.retreat (repeatStep decodeStep s2.retreat.ln8.toNat s2.retreat) := by
    rw [hcount]
    exact decodeSteps_retreat_encodeSteps h1.pos_lt _
  exact ⟨s1, s2, s2.retreat, _, exec_einit_normal h0, Engine.encode.exec_walkCommand h1,
    exec_dinit_eq_retreat (hsame.err.trans h0) hmin2 hpos2, Engine.decode.exec_walkCommand (retreat_canStep h2),
    fun a => hback.readBuf a trivial, hback.xOr, hback.same.crc⟩

end Sys2Proof.Machine
end

section
/-! Access and system commands (44_access_system R180 to R186): what `WRR` answers for each kind of register number and value,
said once (`exec_wrr_writable`, `exec_wrr_missing`), and what the reads and stores answer in range. -/

namespace Sys2Proof.Machine

/-! ### `NOP` and `RST` -/

/-- Settles O24: `NOP` answers its state before `ERR` is looked at. -/
theorem nopChangesNothing : Obligations.NopChangesNothing := fun _ => rfl

/-- The views of the reset value of `CRC` (42_params R145 to R147). -/
theorem views_of_reset_crc : ivOf 0xAAAA = 0 ∧ pwrdOf 0xAAAA = 0 ∧ xor0Of 0xAAAA = 0xAA := by decide

/-- Settles O25: the views follow the reset value of `CRC`, and the reads of a memory depend on the memory only. -/
theorem rstLoadsTheResetValues : Obligations.RstLoadsTheResetValues := by
  intro s
  obtain ⟨hiv, hpar, hx0⟩ := views_of_reset_crc
  refine ⟨s.resetRegisters, rfl, rfl, State.readBuf_congr s.resetRegisters_buf, State.readKey_congr s.resetRegisters_key,
    ?_, ?_, ?_⟩
  · rw [State.readReg, s.resetRegisters_crc, hiv]; rfl
  · rw [State.readReg, s.resetRegisters_crc, hpar]; rfl
  · rw [State.readReg, s.resetRegisters_crc, hx0]; rfl

/-! ### Kinds of registers -/

/-- The registers from 7 up are the read-only ones (10_state R21). -/
theorem regReadOnly_iff {g : Reg} : regReadOnly g = true ↔ 7 ≤ g.number := by cases g <;> decide

theorem Reg.number_le (g : Reg) : g.number ≤ 10 := by cases g <;> decide

theorem regOfNumber_of_gt {r : Nat} (hr : 10 < r) : regOfNumber r = none :=
  Option.eq_none_iff_forall_ne_some.2 fun g hg => hr.not_ge (regOfNumber_eq_some.1 hg ▸ g.number_le)

/-- The registers `WRR` can write, by their numbers (10_state R21). -/
def writableRegs : List Reg := [.crc, .xOr, .pos, .ln8, .klen, .dir, .rot]

theorem not_readOnly_of_mem_writableRegs : ∀ g ∈ writableRegs, regReadOnly g = false := by decide

theorem legalLength_eq_false {size v : Nat} (h : v % 8 ≠ 0 ∨ v < 8 ∨ size < v) : legalLength size v = false := by
  rw [Bool.eq_false_iff, ne_eq, legalLength_iff]
  omega

/-! ### `WRR` -/

theorem exec_wrr_missing {s : State} {r : Nat} (hs : s.err = 0) (hg : regOfNumber r = none) (v : Nat) :
    exec (.wrr r v) s = .next { s with err := FaultCode.reg.code } := by
  simp [exec, execWrr, State.unlessFaulted_normal hs, State.raise_normal hs, hg]

/-- Of a register that can be written, `WRR` checks the value only: its width and its legality record the same fault. -/
theorem exec_wrr_writable {s : State} {r : Nat} {g : Reg} (hs : s.err = 0) (hg : regOfNumber r = some g)
    (hrw : regReadOnly g = false) (v : Nat) :
    exec (.wrr r v) s =
      if v < 2 ^ regWidth g ∧ regLegal s.cfg g v = true then .next (s.writeReg g v)
      else .next { s with err := FaultCode.val.code } := by
  simp only [exec, execWrr, State.unlessFaulted_normal hs, State.raise_normal hs, hg, hrw]
  by_cases hfits : v < 2 ^ regWidth g
  · cases hlegal : regLegal s.cfg g v <;> simp [regFits, hfits]
  · simp [regFits, hfits]

theorem exec_wrr_taken {s : State} {r v : Nat} {g : Reg} (hs : s.err = 0) (hg : regOfNumber r = some g)
    (hrw : regReadOnly g = false) (hfits : v < 2 ^ regWidth g) (hlegal : regLegal s.cfg g v = true) :
    exec (.wrr r v) s = .next (s.writeReg g v) :=
  (exec_wrr_writable hs hg hrw v).trans (if_pos ⟨hfits, hlegal⟩)

theorem exec_wrr_tooWide {s : State} {r v : Nat} {g : Reg} (hs : s.err = 0) (hg : regOfNumber r = some g)
    (hrw : regReadOnly g = false) (hwide : 2 ^ regWidth g ≤ v) :
    exec (.wrr r v) s = .next { s with err := FaultCode.val.code } :=
  (exec_wrr_writable hs hg hrw v).trans (if_neg fun ⟨hfits, _⟩ => hwide.not_gt hfits)

theorem exec_wrr_illegal {s : State} {r v : Nat} {g : Reg} (hs : s.err = 0) (hg : regOfNumber r = some g)
    (hrw : regReadOnly g = false) (hlegal : regLegal s.cfg g v = false) :
    exec (.wrr r v) s = .next { s with err := FaultCode.val.code } :=
  (exec_wrr_writable hs hg hrw v).trans (if_neg fun ⟨_, h⟩ => Bool.eq_false_iff.1 hlegal h)

/-- Settles O26, register by register. -/
theorem wrrWritesTheRegister : Obligations.WrrWritesTheRegister := by
  intro s v hs
  refine ⟨fun hv => ?crc, fun hv => ?xOr, fun hv => ?pos, fun hv h8 hmin hmax => ?ln8, fun hv h8 hmin hmax => ?klen,
    fun hv => ?dir, fun hv => ?rot⟩
  case crc => exact exec_wrr_taken (g := .crc) hs rfl rfl hv rfl
  case xOr => exact exec_wrr_taken (g := .xOr) hs rfl rfl hv rfl
  case pos => exact exec_wrr_taken (g := .pos) hs rfl rfl hv rfl
  case ln8 => exact exec_wrr_taken (g := .ln8) hs rfl rfl hv (legalLength_iff.2 ⟨h8, hmin, hmax⟩)
  case klen => exact exec_wrr_taken (g := .klen) hs rfl rfl hv (legalLength_iff.2 ⟨h8, hmin, hmax⟩)
  case dir => exact exec_wrr_taken (g := .dir) hs rfl rfl hv rfl
  case rot => exact exec_wrr_taken (g := .rot) hs rfl rfl hv rfl

/-- Settles O27: a number from 7 up names no register or a read-only one; the checks of the value come after that. -/
theorem wrrFaultsInOrder : Obligations.WrrFaultsInOrder := by
  intro s r v
  refine ⟨fun hs hr => ?noWrite, fun k hs hk hwide => ?tooWide, fun hs hr hv => ?ln8, fun hs hr hv => ?klen,
    fun hs => ?ignored⟩
  case noWrite =>
    cases hg : regOfNumber r with
    | none => exact exec_wrr_missing hs hg v
    | some g => exact exec_wrr_readOnly hs hg (regReadOnly_iff.2 (regOfNumber_eq_some.1 hg ▸ hr)) v
  case tooWide =>
    have hmem : (r, k) ∈ writableRegs.map fun g => (g.number, regWidth g) := hk
    obtain ⟨g, hg, hrk⟩ := List.mem_map.1 hmem
    obtain ⟨rfl, rfl⟩ := Prod.mk.inj hrk
    exact exec_wrr_tooWide hs (regOfNumber_eq_some.2 rfl) (not_readOnly_of_mem_writableRegs g hg) hwide
  case ln8 => exact exec_wrr_illegal (g := .ln8) hs (regOfNumber_eq_some.2 hr) rfl (legalLength_eq_false hv)
  case klen => exact exec_wrr_illegal (g := .klen) hs (regOfNumber_eq_some.2 hr) rfl (legalLength_eq_false hv)
  case ignored => exact State.unlessFaulted_faulted hs _

/-! ### `RDR` -/

theorem exec_rdr_missing {r : Nat} (hg : regOfNumber r = none) (s : State) : exec (.rdr r) s = .next (s.raise .reg) := by
  simp [exec, execRdr, hg]

/-- Settles O28, register by register; a number above 10 raises the fault, which the fault state ignores. -/
theorem rdrReadsTheRegister : Obligations.RdrReadsTheRegister := by
  intro s
  refine ⟨exec_rdr (g := .crc) rfl s, exec_rdr (g := .xOr) rfl s, exec_rdr (g := .pos) rfl s, exec_rdr (g := .ln8) rfl s,
    exec_rdr (g := .klen) rfl s, exec_rdr (g := .dir) rfl s, exec_rdr (g := .rot) rfl s, exec_rdr (g := .err) rfl s,
    fun r hr => ?_⟩
  rw [exec_rdr_missing (regOfNumber_of_gt hr)]
  refine ⟨fun hs => ?_, fun hs => ?_⟩
  · rw [State.raise_normal hs]; rfl
  · rw [State.raise_faulted hs]

/-! ### `STB`, `STK` and `LDB` in range -/

theorem exec_stb_of_lt {s : State} {a : Nat} (hs : s.err = 0) (ha : a < s.cfg.bufSize) (d : Byte) :
    exec (.stb a d) s = .next (s.writeBuf a d) :=
  (State.unlessFaulted_normal hs _).trans (if_neg ha.not_ge)

theorem exec_stk_of_lt {s : State} {a : Nat} (hs : s.err = 0) (ha : a < s.cfg.keySize) (d : Byte) :
    exec (.stk a d) s = .next (s.writeKey a d) :=
  (State.unlessFaulted_normal hs _).trans (if_neg ha.not_ge)

theorem exec_ldb_of_lt {s : State} {a : Nat} (ha : a < s.cfg.bufSize) :
    exec (.ldb a) s = .next (s.respond ((s.readBuf a).zeroExtend 32)) := if_neg ha.not_ge

/-- Settles O30: a store is one write to its memory. -/
theorem storesWriteOneByte : Obligations.StoresWriteOneByte := fun s a d hs =>
  ⟨fun ha => ⟨_, exec_stb_of_lt hs ha d, rfl, fun b => s.readBuf_writeBuf a b d⟩,
    fun ha => ⟨_, exec_stk_of_lt hs ha d, rfl, fun b => s.readKey_writeKey a b d⟩⟩

/-- Settles O31: zero extension to the 32 bits of `RSP` keeps the byte's value. -/
theorem ldbLoadsOneByte : Obligations.LdbLoadsOneByte := fun s a ha =>
  ⟨_, exec_ldb_of_lt ha, rfl, BitVec.toNat_setWidth_of_le (by decide : 8 ≤ 32)⟩

end Sys2Proof.Machine
end

section
/-! The salting pass (45_host_sequences R207): it changes each byte by itself, by an XOR with a byte that depends on the
offset only, so a second pass takes it back. -/

namespace Sys2Proof.Machine

theorem saltFrom_length (salt : Half) (i : Nat) (frame : List Byte) : (saltFrom salt i frame).length = frame.length := by
  induction i, frame using saltFrom.induct with
  | case1 i a b c rest ih => simpa [saltFrom] using ih
  | case2 i short h =>
    rw [saltFrom]
    exact h

/-- The byte of a salted frame at offset `j` of the bytes from offset `i` on. -/
theorem saltFrom_getElem? (salt : Half) (i : Nat) (frame : List Byte) (j : Nat) :
    (saltFrom salt i frame)[j]? =
      if j + 2 < frame.length then frame[j]?.map (· ^^^ saltByte salt (i + j)) else frame[j]? := by
  induction i, frame using saltFrom.induct generalizing j with
  | case1 i a b c rest ih =>
    rw [saltFrom]
    cases j with
    | zero => simp
    | succ j =>
      rw [List.getElem?_cons_succ, ih, List.getElem?_cons_succ, Nat.add_right_comm i 1 j]
      simp [Nat.add_assoc, Nat.add_comm 1]
  | case2 i short h =>
    have hshort : short.length ≤ 2 := by
      match short, h with
      | [], _ | [_], _ | [_, _], _ => simp
      | a :: b :: c :: rest, h => exact absurd rfl (h a b c rest)
    rw [saltFrom, if_neg (by omega)]
    exact h

theorem saltBytes_length (frame : List Byte) (salt : Half) : (saltBytes frame salt).length = frame.length :=
  saltFrom_length salt 0 frame

theorem saltBytes_getElem? (frame : List Byte) (salt : Half) (i : Nat) :
    (saltBytes frame salt)[i]? =
      if i + 2 < frame.length then frame[i]?.map (· ^^^ saltByte salt i) else frame[i]? := by
  rw [saltBytes, saltFrom_getElem?, Nat.zero_add]

theorem saltBytes_saltBytes (frame : List Byte) (salt : Half) : saltBytes (saltBytes frame salt) salt = frame := by
  refine List.ext_getElem? fun i => ?_
  rw [saltBytes_getElem?, saltBytes_length, saltBytes_getElem?]
  split
  · rw [Option.map_map]
    exact (Option.map_congr fun b _ => xor_cancel_right b _).trans Option.map_id'
  · rfl

/-- Settles O59, byte by byte. -/
theorem saltingIsSelfInverse : Obligations.SaltingIsSelfInverse := fun frame salt =>
  ⟨saltBytes_saltBytes frame salt, saltBytes_length frame salt,
    fun i hi => (saltBytes_getElem? frame salt i).trans (if_pos hi),
    fun i hi => (saltBytes_getElem? frame salt i).trans (if_neg (Nat.not_lt.2 hi))⟩

end Sys2Proof.Machine
end

section
/-! What the block holds once the host has loaded a key and a body (`LDKEY`, `LDBODY`: 30_encoding R105): the commands in
sequence, and the contents of the two memories after them. -/

namespace Sys2Proof.Machine

/-! ### Bytes stored one after another -/

/-- Store bytes from address `a` up. -/
def Memory.writeAll : Memory → Nat → List Byte → Memory
  | m, _, [] => m
  | m, a, b :: bs => Memory.writeAll (m.write a b) (a + 1) bs

theorem Memory.cell?_writeAll_below (bs : List Byte) (m : Memory) {a b : Nat} (h : b < a) :
    (m.writeAll a bs).cell? b = m.cell? b := by
  induction bs generalizing m a with
  | nil => rfl
  | cons d bs ih => rw [Memory.writeAll, ih _ (by omega), m.cell?_write_other d (by omega)]

theorem Memory.cell?_writeAll (bs : List Byte) (m : Memory) (a : Nat) {i : Nat} (h : i < bs.length) :
    (m.writeAll a bs).cell? (a + i) = some bs[i] := by
  induction bs generalizing m a i with
  | nil => exact absurd h (Nat.not_lt_zero i)
  | cons d bs ih =>
    rw [Memory.writeAll]
    cases i with
    | zero => exact (Memory.cell?_writeAll_below bs _ (Nat.lt_succ_self a)).trans (m.cell?_write_same a d)
    | succ i =>
      rw [show a + (i + 1) = a + 1 + i by omega]
      exact ih _ _ (Nat.lt_of_succ_lt_succ h)

/-- Whatever an address reads as before it is written, the bytes stored are the bytes read. -/
theorem Memory.map_range_writeAll (bs : List Byte) (m : Memory) (default : Nat → Byte) :
    ((List.range bs.length).map fun i => ((m.writeAll 0 bs).cell? i).getD (default i)) = bs := by
  refine List.ext_getElem (by simp) fun i _ hi => ?_
  have hcell := Memory.cell?_writeAll bs m 0 hi
  rw [Nat.zero_add] at hcell
  simp [hcell]

theorem runInstrs_append {is : List Instr} {s t : State} (h : runInstrs is s = .next t) (js : List Instr) :
    runInstrs (is ++ js) s = runInstrs js t := by
  induction is generalizing s with
  | nil => cases h; rfl
  | cons i is ih =>
    rw [List.cons_append, runInstrs]
    rw [runInstrs] at h
    cases hi : exec i s with
    | next u => rw [hi] at h; exact ih h
    | fault f => rw [hi] at h; cases h
    | refused r => rw [hi] at h; cases h

theorem runInstrs_storeBuf {bs : List Byte} {a : Nat} {s : State} (hs : s.Normal) (h : a + bs.length ≤ s.cfg.bufSize) :
    runInstrs (storeBuf a bs) s = .next { s with buf := s.buf.writeAll a bs } := by
  induction bs generalizing a s with
  | nil => rfl
  | cons b bs ih =>
    rw [List.length_cons] at h
    rw [storeBuf, runInstrs, exec_stb_of_lt hs (by omega), andThen_next, ih (s := s.writeBuf a b) hs (by simp; omega)]
    rfl

theorem runInstrs_storeKey {bs : List Byte} {a : Nat} {s : State} (hs : s.Normal) (h : a + bs.length ≤ s.cfg.keySize) :
    runInstrs (storeKey a bs) s = .next { s with key := s.key.writeAll a bs } := by
  induction bs generalizing a s with
  | nil => rfl
  | cons b bs ih =>
    rw [List.length_cons] at h
    rw [storeKey, runInstrs, exec_stk_of_lt hs (by omega), andThen_next, ih (s := s.writeKey a b) hs (by simp; omega)]
    rfl

/-! ### A key and a body -/

/-- Bytes that `WRR` can give the length of to `LN8` or `KLEN`, for a memory of `size` bytes (10_state R24, R25). -/
structure FitsMemory (size : Nat) (bytes : List Byte) : Prop where
  legal : legalLength size bytes.length = true
  fits : bytes.length < 2 ^ 17

/-- The block after `LDKEY` of `pwd`. -/
def State.loadKey (s : State) (pwd : List Byte) : State :=
  { s with key := s.key.writeAll 0 pwd, klen := BitVec.ofNat 17 pwd.length }

/-- The block after `LDBODY` of `body`. -/
def State.loadBody (s : State) (body : List Byte) : State :=
  { s with buf := s.buf.writeAll 0 body, ln8 := BitVec.ofNat 17 body.length }

theorem runInstrs_ldKey {s : State} {pwd : List Byte} (hs : s.Normal) (h : FitsMemory s.cfg.keySize pwd) :
    runInstrs (ldKey pwd) s = .next (s.loadKey pwd) := by
  obtain ⟨-, -, hsize⟩ := legalLength_iff.1 h.legal
  have hstore := runInstrs_storeKey hs ((Nat.zero_add _).trans_le hsize)
  have hwrr := exec_wrr_taken (s := { s with key := s.key.writeAll 0 pwd }) (r := 4) (g := .klen) hs rfl rfl h.fits h.legal
  rw [ldKey, runInstrs_append hstore, runInstrs, hwrr]
  rfl

theorem exec_wrr_ln8 {s : State} {body : List Byte} (hs : s.Normal) (h : FitsMemory s.cfg.bufSize body) :
    exec (.wrr 3 body.length) s = .next { s with ln8 := BitVec.ofNat 17 body.length } :=
  exec_wrr_taken (g := .ln8) hs rfl rfl h.fits h.legal

/-- The body's bytes, once its length is in `LN8`. -/
theorem runInstrs_storeBody {s : State} {body : List Byte} (hs : s.Normal) (h : FitsMemory s.cfg.bufSize body) :
    runInstrs (storeBuf 0 body) { s with ln8 := BitVec.ofNat 17 body.length } = .next (s.loadBody body) := by
  obtain ⟨-, -, hsize⟩ := legalLength_iff.1 h.legal
  exact runInstrs_storeBuf (s := { s with ln8 := _ }) hs ((Nat.zero_add _).trans_le hsize)

theorem runInstrs_ldBody {s : State} {body : List Byte} (hs : s.Normal) (h : FitsMemory s.cfg.bufSize body) :
    runInstrs (ldBody body) s = .next (s.loadBody body) := by
  rw [ldBody, runInstrs, exec_wrr_ln8 hs h]
  exact runInstrs_storeBody hs h

/-- The key bytes the engines use, in ascending address order. -/
def State.password (s : State) : List Byte := (List.range s.klen.toNat).map s.readKey

/-- The normal state with legal lengths: the codec's sequences run from here to their ends. -/
structure State.Ready (s : State) : Prop where
  normal : s.Normal
  legalLn8 : s.LegalLn8
  legalKlen : s.LegalKlen

/-- The block is ready, with `body` as its body and `pwd` as its key. -/
structure Holds (s : State) (body pwd : List Byte) : Prop extends s.Ready where
  body : s.body = body
  password : s.password = pwd

theorem State.length_body (s : State) : s.body.length = s.ln8.toNat := by
  rw [State.body, List.length_map, List.length_range]

theorem Holds.ln8 {s : State} {body pwd : List Byte} (h : Holds s body pwd) : s.ln8.toNat = body.length := by
  rw [← h.body, State.length_body]

theorem FitsMemory.toNat_length {size : Nat} {bytes : List Byte} (h : FitsMemory size bytes) :
    (BitVec.ofNat 17 bytes.length).toNat = bytes.length :=
  BitVec.toNat_ofNat .. |>.trans (Nat.mod_eq_of_lt h.fits)

/-- The block with a key, a body and a CRC value, as an encode and a decode have it before their walk. -/
def State.loaded (s : State) (body pwd : List Byte) (crc : Half) : State :=
  ((s.loadKey pwd).loadBody body).setCrc crc

/-- Loading answers what was loaded, whatever the block held before. -/
theorem holds_loaded {s : State} {body pwd : List Byte} (hs : s.Normal) (hbody : FitsMemory s.cfg.bufSize body)
    (hpwd : FitsMemory s.cfg.keySize pwd) (crc : Half) : Holds (s.loaded body pwd crc) body pwd where
  normal := hs
  legalLn8 := by
    have h := legalLength_iff.1 hbody.legal
    rw [← hbody.toNat_length] at h
    exact h
  legalKlen := by
    have h := legalLength_iff.1 hpwd.legal
    rw [← hpwd.toNat_length] at h
    exact h
  body := by
    rw [State.body, State.loaded, State.setCrc_ln8, State.loadBody, hbody.toNat_length]
    exact Memory.map_range_writeAll body _ _
  password := by
    rw [State.password, State.loaded, State.setCrc_klen, State.loadBody, State.loadKey, hpwd.toNat_length]
    exact Memory.map_range_writeAll pwd _ _

end Sys2Proof.Machine
end

section
/-! The block's share of the codec (45_host_sequences R205, R208): what `ENCBODY` leaves is turned back by `DECBODY` on any
block that holds the scrambled body and the same key, because an engine looks at the body, the key bytes below `KLEN` and
a few registers only. On one block the round trip is `walkRoundTrip` (43_walk R171). -/

namespace Sys2Proof.Machine

/-! ### `ENCBODY` and `DECBODY` on a ready block -/

theorem State.Ready.ln8_min {s : State} (h : s.Ready) : 8 ≤ s.ln8.toNat := by
  obtain ⟨-, hmin, -⟩ := h.legalLn8
  exact hmin

theorem State.Ready.ln8_max {s : State} (h : s.Ready) : s.ln8.toNat ≤ s.cfg.bufSize := by
  obtain ⟨-, -, hmax⟩ := h.legalLn8
  exact hmax

theorem State.Ready.setCrc {s : State} (h : s.Ready) (c : Half) : (s.setCrc c).Ready :=
  ⟨h.normal, h.legalLn8, h.legalKlen⟩

theorem State.Ready.respond {s : State} (h : s.Ready) (v : Word) : (s.respond v).Ready :=
  ⟨h.normal, h.legalLn8, h.legalKlen⟩

theorem State.CanStep.ready {s : State} (h : s.CanStep) : s.Ready := by
  obtain ⟨h0, -, hln8, hklen⟩ := h
  exact ⟨h0, hln8, hklen⟩

theorem State.Ready.canStep_setWalk {s : State} (h : s.Ready) {p : Nat} (hp : p < s.ln8.toNat) (dir : BitVec 1) (x : Byte) :
    (s.setWalk p dir x).CanStep :=
  ⟨h.normal, (setWalk_pos_toNat hp dir x).trans_lt hp, h.legalLn8, h.legalKlen⟩

/-- The block after `EINIT`. -/
def State.encodeStart (s : State) : State := s.setWalk (ivOf s.crc).toNat (pwrdOf s.crc) (xor0Of s.crc)

/-- The block after `EINIT; EWALK`. -/
def State.encoded (s : State) : State := repeatStep encodeStep s.ln8.toNat s.encodeStart

/-- The block after `DINIT dir, x`. -/
def State.decodeStart (s : State) (dir : BitVec 1) (x : Byte) : State := s.setWalk (dinitPos s.crc s.ln8.toNat dir) dir x

/-- The block after `DINIT dir, x; DWALK`. -/
def State.decoded (s : State) (dir : BitVec 1) (x : Byte) : State := repeatStep decodeStep s.ln8.toNat (s.decodeStart dir x)

theorem State.Ready.encodeStart_canStep {s : State} (h : s.Ready) : s.encodeStart.CanStep :=
  h.canStep_setWalk (ivOf_lt h.ln8_min) _ _

theorem State.Ready.decodeStart_canStep {s : State} (h : s.Ready) (dir : BitVec 1) (x : Byte) :
    (s.decodeStart dir x).CanStep :=
  h.canStep_setWalk (dinitPos_lt s.crc dir h.ln8_min) _ _

theorem State.Ready.exec_ewalk {s : State} (h : s.Ready) : exec .ewalk s.encodeStart = .next s.encoded :=
  Engine.encode.exec_walkCommand h.encodeStart_canStep

theorem State.Ready.exec_dwalk {s : State} (h : s.Ready) (dir : BitVec 1) (x : Byte) :
    exec .dwalk (s.decodeStart dir x) = .next (s.decoded dir x) :=
  Engine.decode.exec_walkCommand (h.decodeStart_canStep dir x)

theorem encoded_same (s : State) : SameButWalk s.encodeStart s.encoded := repeatStep_same encodeStep_same _ _

theorem decoded_same (s : State) (dir : BitVec 1) (x : Byte) : SameButWalk (s.decodeStart dir x) (s.decoded dir x) :=
  repeatStep_same decodeStep_same _ _

@[simp] theorem encoded_crc (s : State) : s.encoded.crc = s.crc := (encoded_same s).crc

@[simp] theorem encoded_ln8 (s : State) : s.encoded.ln8 = s.ln8 := (encoded_same s).ln8

@[simp] theorem decoded_crc (s : State) (dir : BitVec 1) (x : Byte) : (s.decoded dir x).crc = s.crc :=
  (decoded_same s dir x).crc

@[simp] theorem decoded_ln8 (s : State) (dir : BitVec 1) (x : Byte) : (s.decoded dir x).ln8 = s.ln8 :=
  (decoded_same s dir x).ln8

theorem State.Ready.encoded {s : State} (h : s.Ready) : s.encoded.Ready :=
  (repeatStep_keeps (P := State.CanStep) (fun _ => Engine.encode.step_canStep) _ h.encodeStart_canStep).ready

theorem State.Ready.decoded {s : State} (h : s.Ready) (dir : BitVec 1) (x : Byte) : (s.decoded dir x).Ready :=
  (repeatStep_keeps (P := State.CanStep) (fun _ => Engine.decode.step_canStep) _ (h.decodeStart_canStep dir x)).ready

theorem runInstrs_encBody {s : State} (h : s.Ready) :
    runInstrs encBody s = .next (s.setCrc (crcSeq s.body)).encoded := by
  rw [encBody, runInstrs, exec_crcr_normal h.normal h.ln8_max, andThen_next, runInstrs,
    exec_einit_normal (h.setCrc _).normal, andThen_next, runInstrs]
  exact congrArg (andThen · _) (h.setCrc _).exec_ewalk

theorem runInstrs_decBody {s : State} (h : s.Ready) (crc : Half) (dir : BitVec 1) (x : Byte) :
    runInstrs (decBody crc dir x) s = .next ((s.setCrc crc).decoded dir x) := by
  have hwrr : exec (.wrr 0 crc.toNat) s = .next (s.setCrc crc) := by
    rw [exec_wrr_taken (g := .crc) h.normal rfl rfl crc.isLt rfl, State.writeReg, BitVec.ofNat_toNat, BitVec.setWidth_eq]
    rfl
  rw [decBody, runInstrs, hwrr, andThen_next, runInstrs, exec_dinit_normal (h.setCrc crc).normal, andThen_next, runInstrs]
  exact congrArg (andThen · _) ((h.setCrc crc).exec_dwalk dir x)

/-! ### One block: `walkRoundTrip` -/

theorem State.Ready.decoded_encoded {s : State} (h : s.Ready) :
    (s.encoded.decoded s.encoded.dir s.encoded.xOr).body = s.body ∧
      (s.encoded.decoded s.encoded.dir s.encoded.xOr).xOr = xor0Of s.crc := by
  obtain ⟨s1, s2, s3, s4, h1, h2, h3, h4, hbuf, hxOr, -⟩ := walkRoundTrip s h.normal h.legalLn8 h.legalKlen
  cases (exec_einit_normal h.normal).symm.trans h1
  cases h.exec_ewalk.symm.trans h2
  cases (exec_dinit_normal h.encoded.normal _ _).symm.trans h3
  cases (h.encoded.exec_dwalk _ _).symm.trans h4
  refine ⟨?_, hxOr⟩
  rw [State.body, State.body, decoded_ln8, encoded_ln8]
  exact List.map_congr_left fun a _ => hbuf a

/-! ### Two blocks: what an engine looks at -/

/-- `t` has all of `s` that an engine looks at. -/
structure SameView (s t : State) : Prop where
  ln8 : t.ln8 = s.ln8
  klen : t.klen = s.klen
  dir : t.dir = s.dir
  xOr : t.xOr = s.xOr
  pos : t.pos = s.pos
  readKey : ∀ a < s.klen.toNat, t.readKey a = s.readKey a
  readBuf : ∀ a < s.ln8.toNat, t.readBuf a = s.readBuf a

theorem SameView.step {s t : State} (h : SameView s t) (e : Engine) (hs : s.CanStep) : SameView (e.step s) (e.step t) := by
  obtain ⟨-, hpos, -, -, hklen, -⟩ := hs
  have hbyte : t.readBuf t.pos.toNat = s.readBuf s.pos.toNat := by
    rw [h.pos]
    exact h.readBuf _ hpos
  have hkey : t.keyByte = s.keyByte := by
    rw [State.keyByte, State.keyByte, h.pos, h.klen]
    exact h.readKey _ (Nat.mod_lt _ (by omega))
  rw [e.step_eq, e.step_eq, hbyte, hkey, h.ln8, h.dir, h.xOr, h.pos]
  refine ⟨h.ln8, h.klen, h.dir, rfl, rfl, h.readKey, fun a ha => ?_⟩
  rw [State.readBuf_stepTo, State.readBuf_stepTo, h.pos, h.readBuf a ha]

theorem SameView.repeatStep {s t : State} (h : SameView s t) (e : Engine) (hs : s.CanStep) (n : Nat) :
    SameView (repeatStep e.step n s) (repeatStep e.step n t) := by
  induction n generalizing s t with
  | zero => exact h
  | succ n ih => exact ih (h.step e hs) (e.step_canStep hs)

theorem SameView.body {s t : State} (h : SameView s t) : t.body = s.body := by
  rw [State.body, State.body, h.ln8]
  exact List.map_congr_left fun a ha => h.readBuf a (List.mem_range.1 ha)

/-- Two lists of bytes read in ascending order are equal if the lengths and the bytes are. -/
theorem map_range_eq_map_range {m n : Nat} {f g : Nat → Byte} (h : (List.range m).map f = (List.range n).map g) :
    m = n ∧ ∀ a < n, f a = g a := by
  obtain rfl : m = n := by simpa using congrArg List.length h
  exact ⟨rfl, fun a ha => List.map_inj_left.1 h a (List.mem_range.2 ha)⟩

/-- Two blocks that hold the same are the same to a decode. -/
theorem Holds.sameView_decoded {s t : State} {body pwd : List Byte} (hs : Holds s body pwd) (ht : Holds t body pwd)
    (hcrc : t.crc = s.crc) (dir : BitVec 1) (x : Byte) : SameView (s.decoded dir x) (t.decoded dir x) := by
  obtain ⟨hln8, hbytes⟩ := map_range_eq_map_range (ht.body.trans hs.body.symm)
  obtain ⟨hklen, hkey⟩ := map_range_eq_map_range (ht.password.trans hs.password.symm)
  have hpos : (t.decodeStart dir x).pos = (s.decodeStart dir x).pos := by
    rw [State.decodeStart, State.decodeStart, State.setWalk_pos, State.setWalk_pos, hcrc, hln8]
  have hstart : SameView (s.decodeStart dir x) (t.decodeStart dir x) :=
    ⟨BitVec.eq_of_toNat_eq hln8, BitVec.eq_of_toNat_eq hklen, rfl, rfl, hpos, hkey, hbytes⟩
  rw [State.decoded, State.decoded, hln8]
  exact hstart.repeatStep .decode (hs.toReady.decodeStart_canStep dir x) _

theorem Holds.encoded {s : State} {body pwd : List Byte} (h : Holds s body pwd) : Holds s.encoded s.encoded.body pwd := by
  refine ⟨h.toReady.encoded, rfl, ?_⟩
  rw [State.password, (encoded_same s).klen, ← h.password]
  exact List.map_congr_left fun a _ => State.readKey_congr (encoded_same s).key a

/-- A decode on block `u` of what an encode on block `s` left: the body from before both, and the keystream byte that an
encode starts from. -/
theorem Holds.decoded_encoded {s u : State} {body pwd : List Byte} (hs : Holds s body pwd)
    (hu : Holds u s.encoded.body pwd) (hcrc : u.crc = s.crc) :
    (u.decoded s.encoded.dir s.encoded.xOr).body = body ∧
      (u.decoded s.encoded.dir s.encoded.xOr).xOr = xor0Of (u.decoded s.encoded.dir s.encoded.xOr).crc := by
  obtain ⟨hbody, hxOr⟩ := hs.toReady.decoded_encoded
  have hview := hs.encoded.sameView_decoded hu (hcrc.trans (encoded_crc s).symm) s.encoded.dir s.encoded.xOr
  refine ⟨hview.body.trans (hbody.trans hs.body), ?_⟩
  rw [hview.xOr, hxOr, decoded_crc, hcrc]

end Sys2Proof.Machine
end

section
/-! The codec (45_host_sequences R201 to R214): the lengths the host loads are legal, the trailer and the plain body are read
back as they were written, and with `Holds.decoded_encoded` the decode of an encoded frame is the payload. -/

namespace Sys2Proof.Machine

/-! ### Lengths -/

theorem normalise_length {pw : List Byte} (h : pw ≠ []) :
    (normalise pw).length = pw.length + (8 - pw.length % 8) % 8 := by
  cases pw with
  | nil => exact absurd rfl h
  | cons c cs => rw [normalise, List.length_append, List.length_replicate]

theorem fitsMemory_normalise {pw : List Byte} {size : Nat} (hpw : 6 ≤ pw.length) (hsize : (normalise pw).length ≤ size)
    (hfits : (normalise pw).length < 131072) : FitsMemory size (normalise pw) := by
  have hlen := normalise_length (List.ne_nil_of_length_pos (by omega : 0 < pw.length))
  exact ⟨legalLength_iff.2 ⟨by omega, by omega, hsize⟩, hfits⟩

theorem plainBody_length (payload : List Byte) (rnd : Randoms) :
    (plainBody payload rnd).length = bodyLength payload.length := by
  simp only [plainBody, bodyLength, List.length_append, List.length_cons, List.length_nil, List.length_map,
    List.length_range]
  omega

theorem fitsMemory_of_bodyLength {n size : Nat} {body : List Byte} (hbody : body.length = bodyLength n) (hn : n ≤ 65535)
    (hsize : bodyLength n ≤ size) : FitsMemory size body := by
  rw [← hbody] at hsize
  rw [bodyLength] at hbody
  exact ⟨legalLength_iff.2 ⟨by omega, by omega, hsize⟩, by omega⟩

/-! ### The frame and the plain body, read back -/

theorem hi8_append_lo8 (c : Half) : (hi8 c ++ lo8 c : Half) = c :=
  (BitVec.extractLsb'_append_extractLsb'_eq_extractLsb' rfl).trans BitVec.extractLsb'_eq_self

theorem trailer_length (crc : Half) (x : Byte) (dir : BitVec 1) (rnd : Randoms) : (trailer crc x dir rnd).length = 6 := rfl

theorem getD_append_length_add (l l' : List Byte) (k : Nat) : (l ++ l').getD (l.length + k) 0 = l'.getD k 0 := by
  rw [List.getD_append_right _ _ _ _ (Nat.le_add_right _ _), Nat.add_sub_cancel_left]

theorem parseFrame_append_trailer (body : List Byte) (crc : Half) (x : Byte) (dir : BitVec 1) (rnd : Randoms) :
    parseFrame (body ++ trailer crc x dir rnd) body.length = (body, crc, x, dir) := by
  have hbody : (body ++ trailer crc x dir rnd).take body.length = body := List.take_left
  have h0 := getD_append_length_add body (trailer crc x dir rnd) 0
  rw [Nat.add_zero] at h0
  have hcrcX : ∀ c : Half, (hi8 (c ^^^ repeat16 x) ++ lo8 (c ^^^ repeat16 x) : Half) ^^^ repeat16 x = c := fun c => by
    rw [hi8_append_lo8, xor_cancel_right]
  simp only [parseFrame, hbody, h0, getD_append_length_add]
  simp only [trailer, List.getD_cons_zero, List.getD_cons_succ, hcrcX, BitVec.extractLsb'_append_eq_right]

theorem payload_of_plainBody {payload : List Byte} (h : payload.length ≤ 65535) (rnd : Randoms) :
    ((plainBody payload rnd).getD 0 0).toNat + ((plainBody payload rnd).getD 1 0).toNat * 256 = payload.length ∧
      ((plainBody payload rnd).drop 2).take payload.length = payload := by
  refine ⟨?_, List.take_left⟩
  have hlen : (BitVec.ofNat 8 payload.length).toNat + (BitVec.ofNat 8 (payload.length / 256)).toNat * 256 =
      payload.length := by
    rw [BitVec.toNat_ofNat, BitVec.toNat_ofNat]
    omega
  exact hlen

/-- The salt of a frame is in its last two bytes, which the salting pass leaves. -/
theorem salt_of_saltBytes {body : List Byte} (crc : Half) (x : Byte) (dir : BitVec 1) (rnd : Randoms) :
    ((saltBytes (body ++ trailer crc x dir rnd) rnd.salt).getD (body.length + 5) 0 ++
      (saltBytes (body ++ trailer crc x dir rnd) rnd.salt).getD (body.length + 4) 0 : Half) = rnd.salt := by
  have hlast : ∀ k, 4 ≤ k → (saltBytes (body ++ trailer crc x dir rnd) rnd.salt).getD (body.length + k) 0 =
      (trailer crc x dir rnd).getD k 0 := fun k hk => by
    rw [← getD_append_length_add body (trailer crc x dir rnd), List.getD_eq_getElem?_getD, saltBytes_getElem?,
      if_neg (by rw [List.length_append, trailer_length]; omega), List.getD_eq_getElem?_getD]
  rw [hlast 5 (by decide), hlast 4 (by decide)]
  exact hi8_append_lo8 rnd.salt

/-! ### The host's questions -/

theorem ask_crc (s : State) : ask (.rdr 0) s = some (s.respond (s.crc.zeroExtend 32), s.crc.zeroExtend 32) := rfl

theorem ask_xOr (s : State) : ask (.rdr 1) s = some (s.respond (s.xOr.zeroExtend 32), s.xOr.zeroExtend 32) := rfl

theorem ask_dir (s : State) : ask (.rdr 5) s = some (s.respond (s.dir.zeroExtend 32), s.dir.zeroExtend 32) := rfl

theorem ask_x0 (s : State) :
    ask (.rdr 9) s = some (s.respond ((xor0Of s.crc).zeroExtend 32), (xor0Of s.crc).zeroExtend 32) := rfl

theorem respond_respond (s : State) (v w : Word) : (s.respond v).respond w = s.respond w := rfl

theorem readBack_zero {n : Nat} {s : State} (h : n ≤ s.cfg.bufSize) :
    ∃ r, readBack n 0 s = some (s.respond r, (List.range n).map s.readBuf) := by
  obtain ⟨r, hr⟩ := readBack_eq n 0 s (by rwa [Nat.zero_add])
  simp only [Nat.zero_add] at hr
  exact ⟨r, hr⟩

theorem truncate_zeroExtend {w : Nat} (v : BitVec w) (h : w ≤ 32) : (v.zeroExtend 32).truncate w = v := by
  rw [BitVec.truncate_eq_setWidth, BitVec.setWidth_setWidth_of_le _ h, BitVec.setWidth_eq]

/-- What the host reads after `ENCBODY`: the block changes in `RSP` only. -/
theorem encodeOnBlock_of_run {body pwd : List Byte} {s t : State}
    (hrun : runInstrs (ldKey pwd ++ ldBody body ++ encBody) s = .next t) (hsize : body.length ≤ t.cfg.bufSize) :
    ∃ r, encodeOnBlock body pwd s =
      some (t.respond r, (List.range body.length).map t.readBuf, t.crc, t.xOr, t.dir, t.err.zeroExtend 32) := by
  obtain ⟨r, hback⟩ := readBack_zero (s := t.respond (t.dir.zeroExtend 32)) hsize
  refine ⟨t.err.zeroExtend 32, ?_⟩
  simp (disch := decide) only [encodeOnBlock, Option.bind_eq_bind, hrun, nextOf_next, Option.bind_some, ask_crc, ask_xOr,
    ask_dir, State.respond_xOr, State.respond_dir, respond_respond, truncate_zeroExtend]
  rw [hback]
  rfl

/-- What the host reads after a walk: the CRC is recomputed from the body, so `CRC` alone changes beside `RSP`. -/
theorem readAfterWalk_eq {s : State} (h : s.Ready) :
    ∃ t, readAfterWalk s.ln8.toNat s = some (t, s.xOr, xor0Of s.crc, crcSeq s.body, s.body) := by
  let t := s.respond ((xor0Of s.crc).zeroExtend 32)
  have ht : t.Ready := h.respond _
  have hcrcr : exec .crcr t = .next (t.setCrc (crcSeq s.body)) := exec_crcr_normal ht.normal ht.ln8_max
  obtain ⟨r, hback⟩ := readBack_zero
    (s := (t.setCrc (crcSeq s.body)).respond ((crcSeq s.body).zeroExtend 32)) ht.ln8_max
  refine ⟨(t.setCrc (crcSeq s.body)).respond r, ?_⟩
  simp (disch := decide) only [readAfterWalk, Option.bind_eq_bind, Option.bind_some, ask_xOr, ask_x0, ask_crc,
    State.respond_crc, State.setCrc_crc, respond_respond, truncate_zeroExtend, hcrcr, nextOf_next, t]
  exact congrArg (Option.bind · _) hback

/-! ### Encode -/

theorem entryCheck_eq_none {input pw : List Byte} (hinput : 0 < input.length) (hpw : 6 ≤ pw.length) :
    entryCheck input pw = none := by
  have hempty : input.isEmpty = false := List.isEmpty_eq_false_iff.2 (List.ne_nil_of_length_pos hinput)
  simp [entryCheck, hempty, hpw]

/-- The commands of an encode, one part after another. -/
theorem runInstrs_encode {s : State} {body pwd : List Byte} (hs : s.Normal) (hbody : FitsMemory s.cfg.bufSize body)
    (hpwd : FitsMemory s.cfg.keySize pwd) :
    runInstrs (ldKey pwd ++ ldBody body ++ encBody) s = .next (s.loaded body pwd (crcSeq body)).encoded := by
  have hkey := runInstrs_ldKey hs hpwd
  have hload := runInstrs_ldBody (s := s.loadKey pwd) hs hbody
  have hold : Holds ((s.loadKey pwd).loadBody body) body pwd := holds_loaded hs hbody hpwd s.crc
  rw [List.append_assoc, runInstrs_append hkey, runInstrs_append hload, runInstrs_encBody hold.toReady, hold.body]
  rfl

theorem encodeFrame_eq {payload pw : List Byte} {rnd : Randoms} {s t : State} (hpayload : 1 ≤ payload.length)
    (hmax : payload.length ≤ 65535) (hpw : 6 ≤ pw.length) (hkey : (normalise pw).length ≤ s.cfg.keySize)
    (hrun : runInstrs (ldKey (normalise pw) ++ ldBody (plainBody payload rnd) ++ encBody) s = .next t) (ht : t.Ready)
    (hln8 : t.ln8.toNat = (plainBody payload rnd).length) :
    ∃ r, encodeFrame payload pw rnd s =
      .ok (saltBytes (t.body ++ trailer t.crc t.xOr t.dir rnd) rnd.salt, t.respond r) := by
  obtain ⟨r, hblock⟩ := encodeOnBlock_of_run hrun (hln8 ▸ ht.ln8_max)
  have herr : t.err = 0 := ht.normal
  have hbounds : ¬ (65535 < payload.length ∨ s.cfg.keySize < (normalise pw).length) := by omega
  refine ⟨r, ?_⟩
  rw [encodeFrame, entryCheck_eq_none hpayload hpw]
  simp only [if_neg hbounds, hblock, herr, ← hln8]
  rfl

/-! ### Decode -/

/-- The three parts of a decode on the block, each of them without a fault. -/
theorem decodeOnBlock_eq {s : State} {body pwd : List Byte} (hs : s.Normal) (hbody : FitsMemory s.cfg.bufSize body)
    (hpwd : FitsMemory s.cfg.keySize pwd) (crc : Half) (dir : BitVec 1) (x : Byte) :
    decodeOnBlock body pwd crc dir x s = .ok ((((s.respond 0).loaded body pwd crc).decoded dir x).respond 0) := by
  let s1 := (s.respond 0).loadKey pwd
  have hload : Holds (s1.loadBody body) body pwd := holds_loaded (s := s.respond 0) hs hbody hpwd s.crc
  have hln8 : runInstrs [.wrr 3 body.length] s1 = .next { s1 with ln8 := BitVec.ofNat 17 body.length } := by
    rw [runInstrs, exec_wrr_ln8 (s := s1) hs hbody]
    rfl
  have hwalk : runInstrs (storeBuf 0 body ++ decBody crc dir x) { s1 with ln8 := BitVec.ofNat 17 body.length } =
      .next (((s1.loadBody body).setCrc crc).decoded dir x) := by
    rw [runInstrs_append (runInstrs_storeBody (s := s1) hs hbody), runInstrs_decBody hload.toReady]
  have h1 := issue_of_run .refusedByHost (runInstrs_ldKey hs hpwd) hs
  have h2 := issue_of_run .malformedFrame hln8 hs
  have h3 := issue_of_run .refusedByHost hwalk ((hload.toReady.setCrc crc).decoded dir x).normal
  rw [decodeOnBlock, h1]
  exact (congrArg (· >>= _) h2).trans h3

/-- The three checks after the walk, each of them passed (R209). -/
theorem decodeResult_eq {s : State} {payload : List Byte} {rnd : Randoms} {crc : Half} (h : s.Ready)
    (hmax : payload.length ≤ 65535) (hbody : s.body = plainBody payload rnd) (hxOr : s.xOr = xor0Of s.crc)
    (hcrc : crcSeq (plainBody payload rnd) = crc) : ∃ t, decodeResult s.body.length crc s = .ok (payload, t) := by
  have hln8 := s.length_body
  obtain ⟨t, hread⟩ := readAfterWalk_eq h
  obtain ⟨hlen, hpayload⟩ := payload_of_plainBody hmax rnd
  have hfits : ¬ (plainBody payload rnd).length - 2 < payload.length := by
    rw [plainBody_length, bodyLength]
    omega
  refine ⟨t, ?_⟩
  rw [decodeResult, hln8, hread]
  simp only [hxOr, hcrc, ← hln8, hbody, hlen, hfits, hpayload, ne_eq, not_true_eq_false, if_false]

/-- A frame is taken apart as the encode put it together. -/
theorem decodeFrame_eq {body pw : List Byte} {crc : Half} {x : Byte} {dir : BitVec 1} {rnd : Randoms} {s t : State}
    (hpw : 6 ≤ pw.length) (hkey : (normalise pw).length ≤ s.cfg.keySize)
    (hblock : decodeOnBlock body (normalise pw) crc dir x s = .ok t) :
    decodeFrame (saltBytes (body ++ trailer crc x dir rnd) rnd.salt) pw s = decodeResult body.length crc t := by
  have hlen : (saltBytes (body ++ trailer crc x dir rnd) rnd.salt).length = body.length + 6 := by
    rw [saltBytes_length, List.length_append, trailer_length]
  have hcheck : decodeCheck (saltBytes (body ++ trailer crc x dir rnd) rnd.salt) pw = none := by
    rw [decodeCheck, hlen, if_neg (by omega), entryCheck_eq_none (by omega) hpw]
  rw [decodeFrame, hcheck]
  simp only [if_neg (Nat.not_lt.2 hkey), hlen, Nat.add_sub_cancel, Nat.reduceSubDiff, salt_of_saltBytes,
    saltBytes_saltBytes, parseFrame_append_trailer, hblock]

/-- A decode on block `u` of the frame of an encode on a block that was at `s` before its walk. -/
theorem decodeFrame_of_encoded {s u : State} {payload pw : List Byte} {rnd : Randoms} (hmax : payload.length ≤ 65535)
    (hpw : 6 ≤ pw.length) (hs : Holds s (plainBody payload rnd) (normalise pw))
    (hcrc : s.crc = crcSeq (plainBody payload rnd)) (hu : u.Normal) (hbody : FitsMemory u.cfg.bufSize s.encoded.body)
    (hpwd : FitsMemory u.cfg.keySize (normalise pw)) :
    ∃ v, decodeFrame (saltBytes (s.encoded.body ++ trailer s.crc s.encoded.xOr s.encoded.dir rnd) rnd.salt) pw u =
      .ok (payload, v) := by
  obtain ⟨-, -, hkey⟩ := legalLength_iff.1 hpwd.legal
  have hold := holds_loaded (s := u.respond 0) hu hbody hpwd s.crc
  have hready := hold.toReady.decoded s.encoded.dir s.encoded.xOr
  obtain ⟨hplain, hxOr⟩ := hs.decoded_encoded hold rfl
  have hlen : s.encoded.body.length = (plainBody payload rnd).length := by
    rw [State.length_body, encoded_ln8, hs.ln8]
  rw [decodeFrame_eq hpw hkey (decodeOnBlock_eq hu hbody hpwd s.crc s.encoded.dir s.encoded.xOr), hlen, ← hplain]
  exact decodeResult_eq (hready.respond 0) hmax hplain hxOr hcrc.symm

/-- Settles O60: the decode runs on a block that holds the scrambled body and the key, as `Holds.decoded_encoded` asks. -/
theorem decodeOfEncodedFrameIsThePayload : Obligations.DecodeOfEncodedFrameIsThePayload := by
  intro payload pw rnd s u _ _ hs hu hpayload hmax hpw hbufS hbufU hkeyS hkeyU hfits
  have hplain := plainBody_length payload rnd
  have hbody : FitsMemory s.cfg.bufSize (plainBody payload rnd) := fitsMemory_of_bodyLength hplain hmax hbufS
  have hpwd : FitsMemory s.cfg.keySize (normalise pw) := fitsMemory_normalise hpw hkeyS hfits
  let s0 := s.loaded (plainBody payload rnd) (normalise pw) (crcSeq (plainBody payload rnd))
  have hs0 : Holds s0 (plainBody payload rnd) (normalise pw) := holds_loaded hs hbody hpwd _
  have hln8 : s0.encoded.ln8.toNat = (plainBody payload rnd).length := by rw [encoded_ln8, hs0.ln8]
  have hlen : s0.encoded.body.length = bodyLength payload.length := by rw [State.length_body, hln8, hplain]
  obtain ⟨r, hencode⟩ :=
    encodeFrame_eq hpayload hmax hpw hkeyS (runInstrs_encode hs hbody hpwd) hs0.toReady.encoded hln8
  rw [encoded_crc] at hencode
  refine ⟨_, _, hencode, ?length, ?decode⟩
  case length => rw [saltBytes_length, List.length_append, trailer_length, hlen]
  case decode =>
    exact decodeFrame_of_encoded hmax hpw hs0 rfl hu (fitsMemory_of_bodyLength hlen hmax hbufU)
      (fitsMemory_normalise hpw hkeyU hfits)

end Sys2Proof.Machine
end

section
/-! Faults (60_exceptions R230 to R234): a word in the normal state records a code exactly when the word has that code's
cause (`WordFaults`), and then changes nothing else; with a fault recorded, every command but the four that R234 names is
ignored. -/

namespace Sys2Proof.Machine

/-- Settles O12, by the equation of `step` for an idle host. -/
theorem stepWithNothingPendingIsIdle : Obligations.StepWithNothingPendingIsIdle := fun _ => step_of_idle

/-! ### The fault state ignores -/

theorem execWord_of_error_faulted {w : Word} {s : State} {e : Reject} (hs : s.err ≠ 0) (h : decode w = .error e) :
    execWord w s = .next s := by
  rw [execWord_of_error h, State.raise_faulted hs]

/-- Settles O11: a rejected word raises the code of its reason, and `raise` keeps the first code. -/
theorem stepOnARejectedWordRecordsTheFault : Obligations.StepOnARejectedWordRecordsTheFault := by
  intro s w rest hin
  rw [step_of_command hin]
  refine ⟨fun hs hw => ?undefined, fun hs hw => ?reserved, fun hs hw => ?ignored⟩
  case undefined => exact execWord_of_error_normal (s := { s with input := rest }) hs hw
  case reserved => exact execWord_of_error_normal (s := { s with input := rest }) hs hw
  case ignored =>
    cases hd : decode w with
    | ok i => exact absurd hd (hw i)
    | error e => exact execWord_of_error_faulted (s := { s with input := rest }) hs hd

theorem exec_of_not_runsWhenFaulted {i : Instr} {s : State} (hs : s.err ≠ 0) (hi : ¬ RunsWhenFaulted s i) :
    exec i s = .next s := by
  cases i with
  | nop | rst => exact absurd trivial hi
  | rdr r => rw [exec_rdr_missing (not_not.1 hi), State.raise_faulted hs]
  | ldb a => rw [exec, execLdb, if_pos (Nat.not_lt.1 hi), State.raise_faulted hs]
  | _ => exact State.unlessFaulted_faulted hs _

/-- The numbers up to 10 are those of a register (10_state R21). -/
theorem exists_regOfNumber {r : Nat} (hr : r ≤ 10) : ∃ g, regOfNumber r = some g := by
  have hsome : ∀ r < 11, (regOfNumber r).isSome := by decide
  exact Option.isSome_iff_exists.1 (hsome r (Nat.lt_succ_of_le hr))

theorem regOfNumber_eq_none {r : Nat} : regOfNumber r = none ↔ 10 < r := by
  refine ⟨fun h => Nat.not_le.1 fun hr => ?_, regOfNumber_of_gt⟩
  obtain ⟨g, hg⟩ := exists_regOfNumber hr
  exact Option.some_ne_none g (hg.symm.trans h)

/-- Settles O21: four kinds of command run, and `exec_of_not_runsWhenFaulted` has the rest. -/
theorem faultStateIgnoresOtherWords : Obligations.FaultStateIgnoresOtherWords := by
  intro s w hs
  refine ⟨fun hd => ?rst, fun hd => ?nop, fun r hd hr => ?rdr, fun a hd ha => ?ldb, fun hrst hnop hrdr hldb => ?other⟩
  case rst => exact ⟨s.resetRegisters, execWord_of_ok hd s, rfl, rfl⟩
  case nop => exact execWord_of_ok hd s
  case rdr =>
    obtain ⟨g, hg⟩ := exists_regOfNumber hr
    exact ⟨g, hg, (execWord_of_ok hd s).trans (exec_rdr hg s)⟩
  case ldb => exact (execWord_of_ok hd s).trans (exec_ldb_of_lt ha)
  case other =>
    cases hd : decode w with
    | error e => exact execWord_of_error_faulted hs hd
    | ok i =>
      refine (execWord_of_ok hd s).trans (exec_of_not_runsWhenFaulted hs ?_)
      cases i with
      | nop => exact absurd hd hnop
      | rst => exact absurd hd hrst
      | rdr r => exact not_not.2 (regOfNumber_of_gt (hrdr r hd))
      | ldb a => exact Nat.not_lt.2 (hldb a hd)
      | _ => exact not_false

/-! ### What a word records in the normal state -/

/-- The word has a cause of the code: it is no command, or its command faults (60_exceptions R231). -/
def WordFaults (s : State) (w : Word) (c : FaultCode) : Prop :=
  (∃ e, decode w = .error e ∧ rejectCode e = c) ∨ ∃ i, decode w = .ok i ∧ Faults s i c

theorem exec_of_faults {i : Instr} {s : State} {c : FaultCode} (hs : s.err = 0) (h : Faults s i c) :
    exec i s = .next { s with err := c.code } := by
  cases h with
  | noRegister r v hg => exact exec_wrr_missing hs hg v
  | readOnly r v g hg hro => exact exec_wrr_readOnly hs hg hro v
  | tooWide r v g hg hrw hwide => exact exec_wrr_tooWide hs hg hrw (Nat.not_lt.1 (of_decide_eq_false hwide))
  | notLegal r v g hg hrw _ hlegal => exact exec_wrr_illegal hs hg hrw hlegal
  | rdr r hg => rw [exec_rdr_missing hg, State.raise_normal hs]
  | stb a d ha => exact execStb_of_beyond hs ha d
  | ldb a ha => exact execLdb_of_beyond hs ha
  | stk a d ha => exact execStk_of_beyond hs ha d
  | estep hpos | dstep hpos | ewalk hpos | dwalk hpos => exact State.engine_outside hs hpos _

theorem execWord_of_wordFaults {w : Word} {s : State} {c : FaultCode} (hs : s.err = 0) (h : WordFaults s w c) :
    execWord w s = .next { s with err := c.code } := by
  rcases h with ⟨e, hd, rfl⟩ | ⟨i, hd, hc⟩
  · exact execWord_of_error_normal hs hd
  · exact (execWord_of_ok hd s).trans (exec_of_faults hs hc)

/-- In the normal state a command records a fault and nothing else, or leaves `ERR` at 0. -/
theorem Effect.of_normal {i : Instr} {s t : State} (h : Effect s i t) (hs : s.err = 0) :
    t.err = 0 ∨ ∃ c, Faults s i c ∧ t = { s with err := c.code } := by
  cases h with
  | faulted _ c _ hc => exact .inr ⟨c, hc, rfl⟩
  | rst => exact .inl rfl
  | wrr r v g => exact .inl ((s.writeReg_err g v).trans hs)
  | ewalk => exact .inl ((repeatStep_same encodeStep_same _ s).err.trans hs)
  | dwalk => exact .inl ((repeatStep_same decodeStep_same _ s).err.trans hs)
  | _ => exact .inl hs

theorem execWord_of_normal {w : Word} {s t : State} (hs : s.err = 0) (h : execWord w s = .next t) :
    t.err = 0 ∨ ∃ c, WordFaults s w c ∧ t = { s with err := c.code } := by
  rcases execWord_next h with ⟨i, hd, hexec⟩ | ⟨e, hd, rfl⟩
  · exact ((exec_effect hexec).of_normal hs).imp_right fun ⟨c, hc, ht⟩ => ⟨c, .inr ⟨i, hd, hc⟩, ht⟩
  · exact .inr ⟨rejectCode e, .inl ⟨e, hd, rfl⟩, State.raise_normal hs _⟩

/-- Settles O20, by the next transaction: only a word can record a fault. -/
theorem faultsArePrecise : Obligations.FaultsArePrecise := by
  intro s t hs h ht
  rcases step_next h with ⟨-, rfl⟩ | ⟨w, rest, hin, hw⟩ | ⟨rest, -, rfl⟩
  · exact absurd hs ht
  · rcases execWord_of_normal (s := { s with input := rest }) hs hw with h0 | ⟨c, -, rfl⟩
    · exact absurd h0 ht
    · rw [hin]
      rfl
  · exact absurd rfl ht

theorem FaultCode.code_injective : Function.Injective FaultCode.code := by
  intro c d
  cases c <;> cases d <;> decide

theorem err_eq_code_iff {w : Word} {s t : State} (hs : s.err = 0) (h : execWord w s = .next t) (c : FaultCode) :
    t.err = c.code ↔ WordFaults s w c := by
  constructor
  · intro ht
    rcases execWord_of_normal hs h with h0 | ⟨d, hd, rfl⟩
    · exact absurd (ht.symm.trans h0) c.code_ne_zero
    · exact FaultCode.code_injective ht ▸ hd
  · intro hc
    cases (execWord_of_wordFaults hs hc).symm.trans h
    rfl

theorem err_le_of_normal {w : Word} {s t : State} (hs : s.err = 0) (h : execWord w s = .next t) : t.err.toNat ≤ 6 := by
  rcases execWord_of_normal hs h with h0 | ⟨c, -, rfl⟩
  · simp [h0]
  · exact c.code_le

/-! ### The causes, code by code -/

theorem rejectCode_injective : Function.Injective rejectCode := by
  intro d e
  cases d <;> cases e <;> decide

/-- No command records a code of a rejected word. -/
theorem wordFaults_rejectCode_iff {s : State} {w : Word} {e : Reject} :
    WordFaults s w (rejectCode e) ↔ decode w = .error e := by
  refine ⟨?_, fun hd => .inl ⟨e, hd, rfl⟩⟩
  rintro (⟨d, hd, hde⟩ | ⟨i, -, hc⟩)
  · rwa [← rejectCode_injective hde]
  · cases e <;> cases hc

/-- The other codes are recorded by commands. -/
theorem wordFaults_iff_command {s : State} {w : Word} {c : FaultCode} (hop : c ≠ .op) (hrsv : c ≠ .rsv) :
    WordFaults s w c ↔ ∃ i, decode w = .ok i ∧ Faults s i c := by
  refine or_iff_right ?_
  rintro ⟨e, -, rfl⟩
  cases e with
  | undefinedOpcode => exact hop rfl
  | reservedField => exact hrsv rfl

theorem faults_reg_iff {s : State} {i : Instr} :
    Faults s i .reg ↔ (∃ r v, i = .wrr r v ∧ 7 ≤ r) ∨ ∃ r, i = .rdr r ∧ 10 < r := by
  constructor
  · rintro (⟨r, v, hg⟩ | ⟨r, v, g, hg, hro⟩ | _ | _ | ⟨r, hg⟩)
    · have hr := regOfNumber_eq_none.1 hg
      exact .inl ⟨r, v, rfl, by omega⟩
    · exact .inl ⟨r, v, rfl, regOfNumber_eq_some.1 hg ▸ regReadOnly_iff.1 hro⟩
    · exact .inr ⟨r, rfl, regOfNumber_eq_none.1 hg⟩
  · rintro (⟨r, v, rfl, hr⟩ | ⟨r, rfl, hr⟩)
    · cases hg : regOfNumber r with
      | none => exact .noRegister r v hg
      | some g => exact .readOnly r v g hg (regReadOnly_iff.2 (regOfNumber_eq_some.1 hg ▸ hr))
    · exact .rdr r (regOfNumber_of_gt hr)

/-- Too wide or not legal: where both hold, the width is what `WRR` finds first, and the code is the same. -/
theorem faults_val_iff {s : State} {i : Instr} :
    Faults s i .val ↔ ∃ g v, i = .wrr g.number v ∧ regReadOnly g = false ∧
      (2 ^ regWidth g ≤ v ∨ regLegal s.cfg g v = false) := by
  have hfits {g : Reg} {v : Nat} : regFits g v = false ↔ 2 ^ regWidth g ≤ v := by simp [regFits]
  constructor
  · rintro (_ | _ | ⟨r, v, g, hg, hrw, hwide⟩ | ⟨r, v, g, hg, hrw, _, hlegal⟩)
    · exact ⟨g, v, regOfNumber_eq_some.1 hg ▸ rfl, hrw, .inl (hfits.1 hwide)⟩
    · exact ⟨g, v, regOfNumber_eq_some.1 hg ▸ rfl, hrw, .inr hlegal⟩
  · rintro ⟨g, v, rfl, hrw, hv⟩
    have hg : regOfNumber g.number = some g := regOfNumber_eq_some.2 rfl
    cases hf : regFits g v with
    | false => exact .tooWide _ v g hg hrw hf
    | true =>
      have hlegal := hv.resolve_left fun hwide => Bool.false_ne_true ((hfits.2 hwide).symm.trans hf)
      exact .notLegal _ v g hg hrw hf hlegal

/-- The registers `WRR` can write, each with its number and width (10_state R21). -/
theorem mem_numbersAndWidths_iff {r k : Nat} :
    (r, k) ∈ [(0, 16), (1, 8), (2, 17), (3, 17), (4, 17), (5, 1), (6, 8)] ↔
      ∃ g, regReadOnly g = false ∧ g.number = r ∧ regWidth g = k := by
  have hmem (g : Reg) : g ∈ writableRegs ↔ regReadOnly g = false := by cases g <;> decide
  change (r, k) ∈ writableRegs.map (fun g => (g.number, regWidth g)) ↔ _
  simp [hmem]

/-- Only the two length registers have values that fit them and are not legal. -/
theorem regLegal_eq_false_iff {cfg : Config} {g : Reg} {v : Nat} :
    regLegal cfg g v = false ↔ (g.number = 3 ∧ ¬ (v % 8 = 0 ∧ 8 ≤ v ∧ v ≤ cfg.bufSize)) ∨
      (g.number = 4 ∧ ¬ (v % 8 = 0 ∧ 8 ≤ v ∧ v ≤ cfg.keySize)) := by
  cases g <;> simp [regLegal, Reg.number, ← legalLength_iff]

theorem faults_adr_iff {s : State} {i : Instr} :
    Faults s i .adr ↔ (∃ a d, i = .stb a d ∧ s.cfg.bufSize ≤ a) ∨ (∃ a, i = .ldb a ∧ s.cfg.bufSize ≤ a) ∨
      ∃ a d, i = .stk a d ∧ s.cfg.keySize ≤ a := by
  constructor
  · intro h
    cases h with
    | stb a d ha => exact .inl ⟨a, d, rfl, ha⟩
    | ldb a ha => exact .inr (.inl ⟨a, rfl, ha⟩)
    | stk a d ha => exact .inr (.inr ⟨a, d, rfl, ha⟩)
  · rintro (⟨a, d, rfl, ha⟩ | ⟨a, rfl, ha⟩ | ⟨a, d, rfl, ha⟩)
    · exact .stb a d ha
    · exact .ldb a ha
    · exact .stk a d ha

theorem faults_pos_iff {s : State} {i : Instr} :
    Faults s i .pos ↔ i ∈ [Instr.estep, .dstep, .ewalk, .dwalk] ∧ s.ln8.toNat ≤ s.pos.toNat := by
  constructor
  · intro h
    cases h with
    | estep hpos | dstep hpos | ewalk hpos | dwalk hpos => exact ⟨by simp, hpos⟩
  · rintro ⟨hi, hpos⟩
    simp only [List.mem_cons, List.not_mem_nil, or_false] at hi
    rcases hi with rfl | rfl | rfl | rfl
    · exact .estep hpos
    · exact .dstep hpos
    · exact .ewalk hpos
    · exact .dwalk hpos

/-- Settles O23: `ERR` holds a code exactly when the word has a cause of it, and the causes are those of R231. -/
theorem faultCodesHaveTheirCauses : Obligations.FaultCodesHaveTheirCauses := by
  intro s t w hs h op legal
  have hcommand {c : FaultCode} (hop : c ≠ .op) (hrsv : c ≠ .rsv) :
      t.err = c.code ↔ ∃ i, decode w = .ok i ∧ Faults s i c :=
    (err_eq_code_iff hs h c).trans (wordFaults_iff_command hop hrsv)
  have hrejected (e : Reject) : t.err = (rejectCode e).code ↔ decode w = .error e :=
    (err_eq_code_iff hs h _).trans wordFaults_rejectCode_iff
  refine ⟨(hrejected .undefinedOpcode).trans ?op, hrejected .reservedField,
    (hcommand (c := .reg) (by decide) (by decide)).trans ?reg, (hcommand (c := .val) (by decide) (by decide)).trans ?val,
    (hcommand (c := .adr) (by decide) (by decide)).trans ?adr, (hcommand (c := .pos) (by decide) (by decide)).trans ?pos,
    err_le_of_normal hs h⟩
  case op =>
    rw [decode_eq_undefinedOpcode_iff, show op = field w 31 27 from extract_toNat_eq_field w 27 4]
  case reg =>
    simp only [faults_reg_iff]
    grind
  case val =>
    simp only [faults_val_iff, mem_numbersAndWidths_iff, regLegal_eq_false_iff]
    grind
  case adr =>
    simp only [faults_adr_iff]
    grind
  case pos =>
    simp only [faults_pos_iff, ← and_assoc, exists_and_right]

end Sys2Proof.Machine
end

section
/-! Reset and what every step keeps (70_reset R260, R266): the reset input, the invariant of the block, and the position
inside the body. An engine moves the position within the body, `EINIT` and `DINIT` load one inside it because a legal
body has at least 8 bytes, and of the registers that `WRR` writes only `POS` and `LN8` bear on it. -/

namespace Sys2Proof.Machine

/-! ### The reset input -/

/-- Settles O14: `RST` and the reset input load the same reset values. -/
theorem resetInputActsAsRst : Obligations.ResetInputActsAsRst := by
  intro s rest hin
  have hstep : step s = .next ({ s with input := rest } : State).resetRegisters := step_of_reset hin
  have hrst : exec .rst { s with input := rest } = .next ({ s with input := rest } : State).resetRegisters := rfl
  exact ⟨hstep.trans hrst.symm, _, hstep, rfl⟩

/-! ### The invariant -/

/-- Settles O16, by the next transaction: none, a word, whose every effect keeps the invariant, or the reset input. -/
theorem stepKeepsTheInvariant : Obligations.StepKeepsTheInvariant :=
  fun _ _ => step_keeps_inv

/-! ### The position stays in the body -/

/-- `WRR` of any other register leaves the position where it was in the body. -/
theorem writeReg_pos_lt {s : State} {g : Reg} (hpos : g ≠ .pos) (hln8 : g ≠ .ln8) (h : s.pos.toNat < s.ln8.toNat)
    (v : Nat) : (s.writeReg g v).pos.toNat < (s.writeReg g v).ln8.toNat := by
  rwa [State.writeReg_pos, if_neg hpos, State.writeReg_ln8, if_neg hln8]

theorem setWalk_pos_lt {s : State} {p : Nat} (hp : p < s.ln8.toNat) (dir : BitVec 1) (x : Byte) :
    (s.setWalk p dir x).pos.toNat < (s.setWalk p dir x).ln8.toNat :=
  (setWalk_pos_toNat hp dir x).trans_lt hp

theorem resetRegisters_pos_lt (s : State) : s.resetRegisters.pos.toNat < s.resetRegisters.ln8.toNat := by
  rw [s.resetRegisters_pos, s.resetRegisters_ln8]
  decide

theorem Effect.pos_lt {i : Instr} {s t : State} (h : Effect s i t) (hmin : 8 ≤ s.ln8.toNat)
    (hs : s.pos.toNat < s.ln8.toNat) (hwrr : ∀ v, i ≠ .wrr 2 v ∧ i ≠ .wrr 3 v) : t.pos.toNat < t.ln8.toNat := by
  cases h with
  | nop | ignored | faulted => exact hs
  | rdr | ldb | stb | stk | rol | rolr | ror | rorr | crci | crcb | crcr => exact hs
  | rst => exact resetRegisters_pos_lt s
  | wrr r v g _ hg =>
    obtain ⟨hpos, hln8⟩ := hwrr v
    rw [regOfNumber_eq_some] at hg
    refine writeReg_pos_lt ?_ ?_ hs v
    · rintro rfl
      exact hpos (by rw [hg]; rfl)
    · rintro rfl
      exact hln8 (by rw [hg]; rfl)
  | einit => exact setWalk_pos_lt (ivOf_lt hmin) _ _
  | dinit dir x => exact setWalk_pos_lt (dinitPos_lt s.crc dir hmin) dir x
  | estep => exact Engine.encode.repeatStep_pos_lt hs 1
  | dstep => exact Engine.decode.repeatStep_pos_lt hs 1
  | ewalk => exact Engine.encode.repeatStep_pos_lt hs _
  | dwalk => exact Engine.decode.repeatStep_pos_lt hs _

/-- Settles O18, by the next transaction: a word that is no command moves neither `POS` nor `LN8`. -/
theorem posStaysInTheBody : Obligations.PosStaysInTheBody := by
  intro s t ⟨⟨_, hmin, _⟩, _⟩ hs h hwrr
  rcases step_next h with ⟨-, rfl⟩ | ⟨w, rest, hin, hw⟩ | ⟨rest, -, rfl⟩
  · exact hs
  · rcases execWord_next hw with ⟨i, hdecode, hexec⟩ | ⟨e, -, rfl⟩
    · refine (exec_effect hexec).pos_lt hmin hs fun v => ?_
      obtain ⟨hpos, hln8⟩ := hwrr w rest v hin
      rw [hdecode] at hpos hln8
      exact ⟨fun hi => hpos (congrArg _ hi), fun hi => hln8 (congrArg _ hi)⟩
    · rwa [State.raise_pos, State.raise_ln8]
  · exact resetRegisters_pos_lt _

end Sys2Proof.Machine
end
